-- ==== Sys2Proof/Word.lean ====
section
/-!
DEFINITION. The words of PICSEQ (spec/00_scope.md section 5): unsigned bit vectors, bit 0 least significant. There is
no signed quantity and no arithmetic beyond bitwise logic (spec/41_mask_ops.md R99).
-/
namespace Sys2Proof

/-- One byte, the only size a port moves (spec/20_memory.md R44). -/
abbrev Byte := BitVec 8

/-- A 16-bit value: `irq_mask`, `result`, a command word (spec/10_state.md R10, R15, R16). -/
abbrev Half := BitVec 16

/-- A port number, "16-bit address" (spec/20_memory.md R40). -/
abbrev Port := BitVec 16

end Sys2Proof
end

