-- ==== Sys2Proof/Syntax.lean ====
section
/-!
DEFINITION. The instructions of PICSEQ, one constructor per row of spec/opcode_table.json: the six commands a caller
submits (spec/30_encoding.md R61) and the sixteen port transactions the block emits (R65 to R67).
-/
namespace Sys2Proof

/-- The 22 rows of the opcode table. The operand of a command is `LINE8 = cmd[7:0]`, "the line argument as the caller
passed it" (R60): it is kept at 8 bits so that a line outside 0 to 15 can be written down and be given the treatment
of R64; `Instr.wf` says when it is in range. -/
inductive Instr where
  /-- INIT, `Initialize()` (R80). -/
  | init
  /-- ENABLE n, `EnableIrq(line)` (R90). -/
  | enable (line8 : Byte)
  /-- DISABLE n, `DisableIrq(line)` (R91). -/
  | disable (line8 : Byte)
  /-- EOI n, `SignalEndOfInterrupt(line)` (R105). -/
  | eoi (line8 : Byte)
  /-- RDIRR, `ReadInterruptRequestRegister()` (R110). -/
  | rdirr
  /-- RDISR, `ReadInServiceRegister()` (R111). -/
  | rdisr
  /-- ICW1.M, INIT step 1. -/
  | icw1M
  /-- ICW2.M, INIT step 2. -/
  | icw2M
  /-- ICW3.M, INIT step 3. -/
  | icw3M
  /-- ICW4.M, INIT step 4. -/
  | icw4M
  /-- ICW1.S, INIT step 5. -/
  | icw1S
  /-- ICW2.S, INIT step 6. -/
  | icw2S
  /-- ICW3.S, INIT step 7. -/
  | icw3S
  /-- ICW4.S, INIT step 8. -/
  | icw4S
  /-- MASK.M v, the master's mask byte (R67, R92). -/
  | maskM (v : Byte)
  /-- MASK.S v, the slave's mask byte (R67, R92). -/
  | maskS (v : Byte)
  /-- EOI.S, the end-of-interrupt byte to the slave (R105). -/
  | eoiS
  /-- EOI.M, the end-of-interrupt byte to the master (R105). -/
  | eoiM
  /-- SEL.IRR, the read-IRR selector to the master (R112). -/
  | selIrr
  /-- SEL.ISR, the read-ISR selector to the master (R112). -/
  | selIsr
  /-- RD.M, the read of the master's command port (R112). -/
  | rdM
  /-- RD.S, the read of the slave's command port (R112). -/
  | rdS
  deriving DecidableEq, Repr

/-- The names under which a word is rejected: the six refusals of R63 (a submission that is turned away leaves one of
these marks, spec/00_scope.md section 6), and the name under which the decoder rejects a port word PICSEQ never emits. -/
inductive Reject where
  /-- R63 check 1: a command is in progress (D20). -/
  | reentry
  /-- R63 check 2: `OP` is 0x00 or 0x07 to 0xFF (D6). -/
  | reservedOp
  /-- R63 check 3: INIT, RDIRR or RDISR with a low byte that is not zero (D6). -/
  | reservedOperand
  /-- R63 check 4 and R64: a line operand of 16 or more (D7). -/
  | lineOutOfRange
  /-- R63 check 5: a command other than INIT before INIT (D8). -/
  | beforeInit
  /-- R63 check 6: a second INIT (D9). -/
  | secondInit
  /-- R65: a port word that is no row of the table; it comes from the decoder of port words only and never marks a run. -/
  | notEmitted
  deriving DecidableEq, Repr

end Sys2Proof
end

