-- ==== Sys2Proof/Config.lean ====
section
/-!
DEFINITION. What does not change as the machine runs: the protocol constants (spec/30_encoding.md R66), the parameters
the spec lets a model take as arguments (spec/92_eei_decisions.md, second table), the shape of a chip's registers
(spec/10_state.md R19 to R23), and the free values: constants with no body, for what the spec leaves open.
-/
namespace Sys2Proof

/-- The two controller chips (spec/00_scope.md R2). -/
inductive Side where
  | master
  | slave
  deriving DecidableEq, Repr

/-- A chip's read-selector state (spec/10_state.md R21). -/
inductive RegSel where
  | none
  | irr
  | isr
  deriving DecidableEq, Repr, Inhabited

/-- The registers of one chip that the spec names (spec/10_state.md R19 to R23). Bit k of a register of the master is
line k, of the slave line 8 + k. -/
structure Chip where
  /-- `IMR`: the hardware mask register, 1 = masked (R19). -/
  imr : Byte
  /-- `ICWSTEP`: how many more ICW bytes the chip expects, 0 outside an initialisation sequence (R20). -/
  icwStep : Fin 4
  /-- `RSEL`: the read-selector state (R21). -/
  rsel : RegSel
  /-- `IRR`: pending requests (R22). -/
  irr : Byte
  /-- `ISR`: lines in service (R22). -/
  isr : Byte
  /-- `VBASE`: the vector base latched from ICW2 (R23). -/
  vbase : Byte
  /-- The cascade configuration latched from ICW3: a bit-mask on the master, an identity on the slave (R23). -/
  cascade : Byte
  /-- The operating mode latched from ICW4 (R23). -/
  mode : Byte
  /-- The MODEL's own: the lines, by their numbers 0 to 15, whose interrupt the CPU has taken and for which this chip
  still waits for an end-of-interrupt byte, "once per interrupt taken" (spec/70_reset_and_hazards.md R148). Log entry
  28. -/
  owed : Half
  deriving DecidableEq, Repr, Inhabited

/-- `ICW_PORTS`: where ICW2 to ICW4 are written (spec/40_init.md R82, D1). -/
inductive IcwPorts where
  | split
  | allCommand
  deriving DecidableEq, Repr

/-- `READ_ORDER`: the order of the two diagnostic reads (spec/20_memory.md R47, D11). -/
inductive ReadOrder where
  | masterFirst
  | slaveFirst
  deriving DecidableEq, Repr

/-- `LINE_OOR`: the treatment of a line operand of 16 or more (spec/30_encoding.md R64, D7). -/
inductive LineOor where
  | refuse
  | mod16
  deriving DecidableEq, Repr

/-- The grain of a step (spec/10_state.md R16, D4): one micro-step of a command, or "a whole command as one atomic
step". Log entry 15. -/
inductive Grain where
  | microStep
  | atomic
  deriving DecidableEq, Repr

/-- The parameters of the model. No step changes them. -/
structure Params where
  icwPorts : IcwPorts
  readOrder : ReadOrder
  lineOor : LineOor
  /-- `MASK_RESET`: `irq_mask` before INIT (spec/10_state.md R30, D10). -/
  maskReset : Half
  grain : Grain
  /-- Whether the chips exist and respond (spec/20_memory.md R50, D17). Log entry 19. -/
  chipsPresent : Bool
  /-- Whether a responder for the chip pair constrains the draws (spec/20_memory.md R49, D12). Log entry 18. -/
  responder : Bool
  deriving DecidableEq, Repr

namespace Config

/-- The defaults of spec/92_eei_decisions.md, micro-steps as D4 decides, chips present, every read a draw (D12). Log
entry 1. -/
def defaults : Params where
  icwPorts := .split
  readOrder := .masterFirst
  lineOor := .refuse
  maskReset := 0xFFFF
  grain := .microStep
  chipsPresent := true
  responder := false

/-! The constant map of R66: "Fixed port/constant map the implementation must reproduce exactly". -/

/-- "master ctrl/EOI/selector". -/
def masterCmd : Port := 0x0020
/-- "master mask register". -/
def masterData : Port := 0x0021
/-- "slave ctrl/EOI/selector". -/
def slaveCmd : Port := 0x00A0
/-- "slave mask register". -/
def slaveData : Port := 0x00A1
/-- ICW1 of both chips, "begin init". -/
def icw1 : Byte := 0x11
/-- The master's ICW2, "vector base". -/
def icw2Master : Byte := 0x20
/-- The master's ICW3, "cascade line bitmap (bit 2)". -/
def icw3Master : Byte := 0x04
/-- The master's ICW4, "mode". -/
def icw4Master : Byte := 0x01
/-- The slave's ICW2, "vector base". -/
def icw2Slave : Byte := 0x28
/-- The slave's ICW3, "cascade identity". -/
def icw3Slave : Byte := 0x02
/-- The slave's ICW4, "mode". -/
def icw4Slave : Byte := 0x01
/-- The read-IRR selector, "OCW3 command". -/
def selectIrr : Byte := 0x0A
/-- The read-ISR selector, "OCW3 command". -/
def selectIsr : Byte := 0x0B
/-- The end-of-interrupt byte, "OCW2 command". -/
def eoiByte : Byte := 0x20
/-- `MASK_BASELINE` (spec/40_init.md R83): every bit 1 except bit 2. -/
def maskBaseline : Half := 0xFFFB
/-- Bit 2 of a 16-bit mask, the cascade bit (spec/10_state.md R11). -/
def cascadeBit : Half := 0x0004

/-! Free values: nothing constrains them. Each is applied to a number made from `State.draws` (log entry 24), `rank` to a
line. -/

/-- `draw8()`: the byte a port read returns (spec/20_memory.md R49). Log entry 7. -/
opaque draw8 : Nat → Byte

/-- A chip's registers where the spec says "any value" (spec/93_implementation_defined.md U4, U5, U7, U9). Log entries
8 to 12. -/
opaque freeChip : Side → Nat → Chip

/-- Which lines the CPU has taken into service since the last port transaction (spec/10_state.md R22). Log entry 8. -/
opaque freeTaken : Nat → Half

/-- Which in-service bit an end-of-interrupt byte clears (spec/42_eoi.md R108: "Which bit, the document does not
say"), and which of the slave's lines is the one taken. Log entries 8 and 11. -/
opaque freePick : Nat → Nat

/-- The priority order of a chip's eight lines, the smaller number first (spec/60_exceptions.md R128: "lines of one chip
are ordered by priority", and which order is not given). Log entry 29. -/
opaque rank : Side → Nat → Nat

end Config

end Sys2Proof
end

