-- ==== Sys2Proof/WellFormed.lean ====
section
/-!
DEFINITION. Which terms of Instr are instructions of the hardware: the line operand of ENABLE, DISABLE and EOI is 0 to
15 (spec/30_encoding.md R60, R62: `LZ`, the high four bits of `LINE8`, "must be 0b0000 in every defined command").
Every other operand is a whole byte and has no check.
-/
namespace Sys2Proof

/-- `LZ = 0`: the line operand is 0 to 15 (R60). -/
def lineInRange (line8 : Byte) : Bool := decide (line8.toNat < 16)

/-- The line operand of a command that has one. -/
def Instr.line? : Instr → Option Byte
  | .enable l | .disable l | .eoi l => some l
  | _ => none

/-- Well-formedness: a line operand, where there is one, is in range. -/
def Instr.wf (i : Instr) : Bool :=
  match i.line? with
  | some l => lineInRange l
  | none => true

/-- The six commands, the instructions a caller can submit (R61); the other rows are port transactions. -/
def Instr.isCommand : Instr → Bool
  | .init | .enable _ | .disable _ | .eoi _ | .rdirr | .rdisr => true
  | _ => false

end Sys2Proof
end

