-- ==== Sys2Proof/Decode.lean ====
section
/-!
DEFINITION. The encodings of spec/30_encoding.md: the port operation each port-transaction row stands for (R65 to R67),
the decoder of command words (R60 to R63) and of port words (R65), total and rejecting by name, and after them the
encoder.
-/
namespace Sys2Proof

/-- A port transaction without the byte a read returns: direction, port, and the byte a write moves (R65). -/
inductive PortOp where
  | write (port : Port) (byte : Byte)
  | read (port : Port)
  deriving DecidableEq, Repr

/-- The port of ICW2 to ICW4 of a chip: the data port, or with `ICW_PORTS = all_command` the command port (R82, D1). -/
def icwPort (ports : IcwPorts) : Side → Port
  | .master => match ports with | .split => Config.masterData | .allCommand => Config.masterCmd
  | .slave => match ports with | .split => Config.slaveData | .allCommand => Config.slaveCmd

/-- The constant map R66 and the mask bytes R67, row by row: what a port-transaction row does on the port bus. A
command is no single transaction. -/
def portOp (ports : IcwPorts) : Instr → Option PortOp
  | .icw1M => some (.write Config.masterCmd Config.icw1)
  | .icw2M => some (.write (icwPort ports .master) Config.icw2Master)
  | .icw3M => some (.write (icwPort ports .master) Config.icw3Master)
  | .icw4M => some (.write (icwPort ports .master) Config.icw4Master)
  | .icw1S => some (.write Config.slaveCmd Config.icw1)
  | .icw2S => some (.write (icwPort ports .slave) Config.icw2Slave)
  | .icw3S => some (.write (icwPort ports .slave) Config.icw3Slave)
  | .icw4S => some (.write (icwPort ports .slave) Config.icw4Slave)
  | .maskM v => some (.write Config.masterData v)
  | .maskS v => some (.write Config.slaveData v)
  | .eoiS => some (.write Config.slaveCmd Config.eoiByte)
  | .eoiM => some (.write Config.masterCmd Config.eoiByte)
  | .selIrr => some (.write Config.masterCmd Config.selectIrr)
  | .selIsr => some (.write Config.masterCmd Config.selectIsr)
  | .rdM => some (.read Config.masterCmd)
  | .rdS => some (.read Config.slaveCmd)
  | .init | .enable _ | .disable _ | .eoi _ | .rdirr | .rdisr => none

/-- A word of one of the three formats: `CMD16` (R60), `PORTW` and `PORTR` (R65). -/
inductive CodeWord where
  | cmd16 (w : BitVec 16)
  | portw (w : BitVec 24)
  | portr (w : BitVec 16)
  deriving DecidableEq, Repr

/-! ## Command words -/

/-- `OP = cmd[15:8]` (R60). -/
def opField (w : Half) : Byte := w.extractLsb' 8 8

/-- `LINE8 = cmd[7:0]` (R60). -/
def lineField (w : Half) : Byte := w.extractLsb' 0 8

/-- An operation without operand: its low byte must be zero (R63 check 3). -/
def noOperand (w : Half) (i : Instr) : Except Reject Instr :=
  if lineField w = 0 then .ok i else .error .reservedOperand

/-- R63 checks 2 and 3: the command a submitted word asks for. A line operand is taken whole (`LINE8`), in range or
not: what becomes of one of 16 or more is R64, a matter of the machine. -/
def readCmd (w : Half) : Except Reject Instr :=
  match (opField w).toNat with
  | 1 => noOperand w .init
  | 2 => .ok (.enable (lineField w))
  | 3 => .ok (.disable (lineField w))
  | 4 => .ok (.eoi (lineField w))
  | 5 => noOperand w .rdirr
  | 6 => noOperand w .rdisr
  | _ => .error .reservedOp

/-- The decoder of command words: `w` selects the row whose `w AND mask == match` (R61), so a line word with `LZ`
not zero is no row's word. -/
def decodeCmd (w : Half) : Except Reject Instr :=
  match readCmd w with
  | .ok i => if i.wf then .ok i else .error .lineOutOfRange
  | .error r => .error r

/-! ## Port words -/

/-- The rows that stand at INIT's steps 2 to 4 and 6 to 8, the positions at which a byte is an ICW (R67). -/
def Instr.atIcwPosition : Instr → Bool
  | .icw2M | .icw3M | .icw4M | .icw2S | .icw3S | .icw4S => true
  | _ => false

/-- A port write at one of those positions. -/
def decodeIcw (ports : IcwPorts) (p : Port) (v : Byte) : Except Reject Instr :=
  if p = icwPort ports .master then
    if v = Config.icw2Master then .ok .icw2M
    else if v = Config.icw3Master then .ok .icw3M
    else if v = Config.icw4Master then .ok .icw4M
    else .error .notEmitted
  else if p = icwPort ports .slave then
    if v = Config.icw2Slave then .ok .icw2S
    else if v = Config.icw3Slave then .ok .icw3S
    else if v = Config.icw4Slave then .ok .icw4S
    else .error .notEmitted
  else .error .notEmitted

/-- A port write at any other position. -/
def decodeWrite (p : Port) (v : Byte) : Except Reject Instr :=
  if p = Config.masterData then .ok (.maskM v)
  else if p = Config.slaveData then .ok (.maskS v)
  else if p = Config.masterCmd then
    if v = Config.icw1 then .ok .icw1M
    else if v = Config.eoiByte then .ok .eoiM
    else if v = Config.selectIrr then .ok .selIrr
    else if v = Config.selectIsr then .ok .selIsr
    else .error .notEmitted
  else if p = Config.slaveCmd then
    if v = Config.icw1 then .ok .icw1S
    else if v = Config.eoiByte then .ok .eoiS
    else .error .notEmitted
  else .error .notEmitted

/-- A port read. -/
def decodeRead (p : Port) : Except Reject Instr :=
  if p = Config.masterCmd then .ok .rdM
  else if p = Config.slaveCmd then .ok .rdS
  else .error .notEmitted

/-- The decoder of all three formats. `icw` says whether the word stands at an ICW position of INIT: "position in the
sequence, not the byte value, tells the two apart" (R67). -/
def decode (ports : IcwPorts) (icw : Bool) : CodeWord → Except Reject Instr
  | .cmd16 w => decodeCmd w
  | .portw w =>
    let p : Port := w.extractLsb' 8 16
    let v : Byte := w.extractLsb' 0 8
    if icw then decodeIcw ports p v else decodeWrite p v
  | .portr w => decodeRead w

/-- The host's question: the instruction read from a row's word `w` of `nbits` bits. The table prints the ports of
`ICW_PORTS = split`, and it prints no position: a 24-bit word is read at an ICW position first and, where it is no
row there, as any other port write; a 16-bit word is read as a port read first (its high byte, 0x00, is no `OP`) and
then as a command (log entry 21). -/
def decodeTableWord (nbits w : Nat) : Option Instr :=
  if w < 2 ^ nbits then
    if nbits = 16 then
      match decodeRead (BitVec.ofNat 16 w) with
      | .ok i => some i
      | .error _ =>
        match decodeCmd (BitVec.ofNat 16 w) with
        | .ok i => some i
        | .error _ => none
    else if nbits = 24 then
      match decode .split true (.portw (BitVec.ofNat 24 w)) with
      | .ok i => some i
      | .error _ =>
        match decode .split false (.portw (BitVec.ofNat 24 w)) with
        | .ok i => some i
        | .error _ => none
    else none
  else none

/-! ## The encoder -/

/-- `CMD16` of an operation code and a low byte (R60). -/
def cmdWord (op low : Byte) : Half := op ++ low

/-- The command word of a command (R61); a port transaction has none and is given the reserved word 0x0000. -/
def encodeCmd : Instr → Half
  | .init => cmdWord 0x01 0x00
  | .enable l => cmdWord 0x02 l
  | .disable l => cmdWord 0x03 l
  | .eoi l => cmdWord 0x04 l
  | .rdirr => cmdWord 0x05 0x00
  | .rdisr => cmdWord 0x06 0x00
  | _ => 0x0000

/-- The word of an instruction: R61 for a command, R65 for a port transaction. -/
def encode (ports : IcwPorts) (i : Instr) : CodeWord :=
  match portOp ports i with
  | some (.write p v) => .portw (p ++ v)
  | some (.read p) => .portr p
  | none => .cmd16 (encodeCmd i)

end Sys2Proof
end

