-- ==== Sys2Proof/Machine/State.lean ====
section
/-!
DEFINITION. What the machine holds (spec/10_state.md), as plain data, and its state right after reset
(spec/70_reset_and_hazards.md R140, R141).
-/
namespace Sys2Proof.Machine

/-- The lifecycle flag, "the only flag or condition code of PICSEQ" (R14). -/
inductive Phase where
  | uninitialized
  | ready
  deriving DecidableEq, Repr

/-- One event of the port trace (R57): `W(p, v)` or `R(p) = v`. -/
inductive PortEvent where
  | w (port : Port) (byte : Byte)
  | r (port : Port) (byte : Byte)
  deriving DecidableEq, Repr

/-- When the caller submits a word: it waits until PICSEQ is idle, as R143 asks of it, or it breaks that duty and
submits after so many more micro-steps of the command in progress (log entry 14). -/
inductive Timing where
  | whenIdle
  | afterMicroSteps (k : Nat)
  deriving DecidableEq, Repr

/-- A command word the caller has still to submit. -/
structure Submission where
  word : Half
  timing : Timing
  deriving DecidableEq, Repr

/-- The whole state. -/
structure State where
  /-- The parameters; no step changes them. -/
  par : Params
  /-- `irq_mask` (R10). -/
  irqMask : Half
  /-- `phase` (R14). -/
  phase : Phase
  /-- `result` (R15). -/
  result : Half
  /-- `busy` (R16). -/
  busy : Bool
  /-- `cmd`, the accepted command word (R16). -/
  cmd : Half
  /-- `step`, the index of the next micro-step (R16). -/
  step : Nat
  /-- What is left of the transaction list step 0 built (R16; log entry 17). -/
  txns : List Instr
  /-- `mb` of READREG, the byte last read from the master's command port (R112; log entry 4). -/
  readM : Byte
  /-- `sb` of READREG, the byte last read from the slave's command port (R112; log entry 4). -/
  readS : Byte
  /-- The master chip (R19 to R23). -/
  master : Chip
  /-- The slave chip (R19 to R23). -/
  slave : Chip
  /-- The port trace, oldest event first (R57). -/
  trace : List PortEvent
  /-- The refusal marks, oldest first (R63; log entry 13). -/
  refusals : List Reject
  /-- The command stream: what the caller has still to submit (D21; log entry 6). -/
  stream : List Submission
  /-- The canned read responses not yet used (R49; log entry 7). -/
  answers : List Byte
  /-- How many port transactions have drawn their free values (log entry 24). -/
  draws : Nat
  deriving DecidableEq, Repr

/-- The faults of the model. PICSEQ itself raises none (spec/60_exceptions.md R120). -/
inductive Fault where
  /-- Raised by `step` alone, in a state that no run from reset reaches: PICSEQ is busy, but the latched word is no
  command, or no transaction of the list is left. Safe: nothing is claimed of such a state. Log entry 20. -/
  | sequenceLost
  deriving DecidableEq, Repr

/-- The refusals of the host's interface. A refused SUBMISSION (R63) is not one of these: it is a next state with a
mark in `State.refusals` (log entry 13). -/
inductive Refusal where
  /-- Raised by an arm of `exec` whose instruction has no meaning yet; no arm does. Safe. -/
  | notModelled (mnemonic : String)
  deriving DecidableEq, Repr

/-- A chip at reset: every register is unspecified (R34); zero is the model's choice (log entry 5). `owed` is the
model's own (log entry 28). -/
def chipAtReset : Chip where
  imr := 0
  icwStep := 0
  rsel := .none
  irr := 0
  isr := 0
  vbase := 0
  cascade := 0
  mode := 0
  owed := 0

/-- The state after reset for given parameters (R30 to R34, R140, R141). -/
def State.resetWith (par : Params) : State where
  par := par
  irqMask := par.maskReset
  phase := .uninitialized
  result := 0
  busy := false
  cmd := 0
  step := 0
  txns := []
  readM := 0
  readS := 0
  master := chipAtReset
  slave := chipAtReset
  trace := []
  refusals := []
  stream := []
  answers := []
  draws := 0

/-- The state after reset, every parameter at its default. -/
def State.reset : State := State.resetWith Config.defaults

end Sys2Proof.Machine
end

