-- ==== Sys2Proof/Machine/Operands.lean ====
section
/-!
DEFINITION. Operand forms: the line operand (spec/30_encoding.md R62, R64), the byte views of a 16-bit value and the
assembly of one from two bytes (spec/20_memory.md R45).
-/
namespace Sys2Proof.Machine

/-- `m[7:0]`, the master-side byte (R11, R45). -/
def lo (m : Half) : Byte := m.extractLsb' 0 8

/-- `m[15:8]`, the slave-side byte (R11, R45). -/
def hi (m : Half) : Byte := m.extractLsb' 8 8

/-- `{s, m}`: slave byte high, master byte low (R45, R115). -/
def pair (slaveByte masterByte : Byte) : Half := slaveByte ++ masterByte

/-- `n = cmd[3:0]`, the line number a line operand names (R62). -/
def lineOf (line8 : Byte) : BitVec 4 := line8.extractLsb' 0 4

/-- `bit(n) = 1 << n` (R62). -/
def bitOf (n : BitVec 4) : Half := (1 : Half) <<< n.toNat

/-- `slave_side(n) = (n >= 8)` (R62). -/
def slaveSide (n : BitVec 4) : Bool := decide (8 ≤ n.toNat)

/-- R64: whether a line operand is taken: it is in range, or `LINE_OOR = mod16` takes it modulo 16. -/
def lineTaken (oor : LineOor) (line8 : Byte) : Bool :=
  match oor with
  | .refuse => lineInRange line8
  | .mod16 => true

end Sys2Proof.Machine
end

