-- ==== Sys2Proof/Machine/Flags.lean ====
section
/-!
DEFINITION. The mask bits: what ENABLE and DISABLE make of `irq_mask`, the cascade-line enforcer among it
(spec/41_mask_ops.md R90, R91), and which lines the chips' mask registers let through (spec/60_exceptions.md R123).
PICSEQ has no arithmetic flag (spec/10_state.md R14).
-/
namespace Sys2Proof.Machine

/-- ENABLE's new mask (R90 step 0): bit n cleared and, for a slave-side line, the cascade bit too. -/
def enableMask (n : BitVec 4) (m : Half) : Half :=
  let m1 := m &&& ~~~(bitOf n)
  if slaveSide n then m1 &&& ~~~Config.cascadeBit else m1

/-- DISABLE's new mask (R91 step 0): bit n set and, if then every slave-side bit is set, the cascade bit too. -/
def disableMask (n : BitVec 4) (m : Half) : Half :=
  let m1 := m ||| bitOf n
  if hi m1 = 0xFF then m1 ||| Config.cascadeBit else m1

/-- The lines the two hardware mask registers let through (R123, and R146 in the window between the two mask writes):
a master-side line if the master's register enables it, a slave-side line if the slave's register enables it and line
2 is enabled in the master's. -/
def deliverable (imrM imrS : Byte) : Half :=
  pair (if imrM.getLsbD 2 then 0 else ~~~imrS) (~~~imrM)

end Sys2Proof.Machine
end

