-- ==== Sys2Proof/Machine/Ops.lean ====
section
/-!
DEFINITION. The shared operations: what the chips make of a byte, what the environment does between two port
transactions, the two port primitives (spec/20_memory.md R42, R43), admission and refusal (spec/30_encoding.md R63),
and the running of a command's transactions (spec/10_state.md R16).

There is no exception to take and none to return from: "PICSEQ raises no exception, fault, trap, error code or status"
(spec/60_exceptions.md R120, R129, R130).
-/
namespace Sys2Proof.Machine

/-! ## A chip -/

/-- The numbers of the bits set in a value. -/
def setBits {w : Nat} (v : BitVec w) : List Nat := (List.range w).filter fun k => v.getLsbD k

/-- One of the bits set in `v`, named by the free number `pick`. -/
def pickBit {w : Nat} (pick : Nat) (v : BitVec w) : Nat := (setBits v).getD (pick % (setBits v).length) 0

/-- One of the bits set in `v`, alone; none if `v` is 0. -/
def oneOf {w : Nat} (pick : Nat) (v : BitVec w) : BitVec w := if v = 0 then 0 else (1 : BitVec w) <<< pickBit pick v

/-- The end-of-interrupt byte is for an interrupt that was taken and that this chip has had no EOI for, and something is
in service. Else it is one of the cases of U9: "EOI with nothing in service; two EOIs for one interrupt; EOI for the wrong
line". -/
abbrev serves (due : Half) (c : Chip) : Prop := c.owed &&& due ≠ 0 ∧ c.isr ≠ 0

/-- The lines in service an end-of-interrupt byte can end: those the chip does not hold for the other chip (`held`, R125),
or, if nothing else is in service, what it holds, for a bit of the ISR is cleared all the same (R108). -/
def endable (held isr : Byte) : Byte := if isr &&& ~~~held = 0 then isr else isr &&& ~~~held

/-- The end-of-interrupt byte at a chip (R108), written for the line whose bit is `due`: one bit of the ISR is cleared,
which one of those `endable` is free. That it leaves the IRR as it is, is the model's DESIGN CHOICE (R108 speaks of the ISR
alone, and R22 names the EOI command among what changes the two; log entry 31). In the cases of U9 the effect is not
described: any ISR and IRR, and no EOI is waited for any more. Whether the byte disturbs the selection is not said (N11).
The mask register and the configuration stay (R107, R23). Log entries 11 and 28. -/
def acknowledge (free : Chip) (pick : Nat) (due : Half) (held : Byte) (c : Chip) : Chip :=
  { c with
    rsel := free.rsel
    irr := if serves due c then c.irr else free.irr
    isr := if serves due c then c.isr &&& ~~~oneOf pick (endable held c.isr) else free.isr
    owed := if serves due c then c.owed &&& ~~~due else 0 }

/-- The next ICW of an initialisation sequence (R20, R23): vector base, then cascade configuration, then mode, each
leaving one byte fewer to come. That it does nothing else to the chip, its selector, IRR and ISR among it, is the model's
DESIGN CHOICE (U4; log entry 30). -/
def takeIcw (v : Byte) (c : Chip) : Chip :=
  match c.icwStep with
  | 0 => c
  | 1 => { c with mode := v, icwStep := 0 }
  | 2 => { c with cascade := v, icwStep := 1 }
  | 3 => { c with vbase := v, icwStep := 2 }

/-- A byte written to a chip's command port (R20, R21, R48, R108); `acked` is what an end-of-interrupt byte leaves. ICW1
begins an initialisation sequence, whatever the chip was doing, and what it leaves in the other registers is not said
(U4; log entry 9). Any other byte inside a sequence is out of sequence (U7): with `ICW_PORTS = all_command` ICW2 to ICW4
are such bytes, which this port reads "as operation control words" (R82). That a selector changes nothing of the chip but
the selection is the model's DESIGN CHOICE where no rule says it (log entry 32). A byte no rule describes has no described
effect. After either the chip's state is any value (log entry 10). -/
def takeCommand (free acked : Chip) (v : Byte) (c : Chip) : Chip :=
  if v = Config.icw1 then { free with icwStep := 3, owed := 0 }
  else if c.icwStep ≠ 0 then { free with owed := 0 }
  else if v = Config.selectIrr then { c with rsel := .irr }
  else if v = Config.selectIsr then { c with rsel := .isr }
  else if v = Config.eoiByte then acked
  else { free with owed := 0 }

/-- A byte written to a chip's data port. Outside an initialisation sequence it replaces the mask register (R19), and
that it does nothing else to the chip is the model's DESIGN CHOICE (R48: "the document says nothing of any other effect";
log entry 27). Inside one it is the next ICW (R20, R23, R82, D1); with `ICW_PORTS = all_command` it comes out of sequence,
and the chip's state is any value (U7; log entry 10). -/
def takeData (ports : IcwPorts) (free : Chip) (v : Byte) (c : Chip) : Chip :=
  if c.icwStep = 0 then { c with imr := v }
  else
    match ports with
    | .split => takeIcw v c
    | .allCommand => { free with owed := 0 }

/-! ## Priority and blocking -/

/-- Line `k` of a chip has a higher priority than line `j`: an order of the chip's lines, which one is free (R128; log
entry 29). -/
def above (side : Side) (k j : Nat) : Bool :=
  decide (Config.rank side k < Config.rank side j) || (Config.rank side k == Config.rank side j && decide (k < j))

/-- The lines of a chip that those in `service` do not block: a line in service blocks itself (R126) and the lines below
it (R128). -/
def unblocked (side : Side) (service : Byte) : Byte :=
  BitVec.ofFnLE fun k : Fin 8 => (setBits service).all fun j => above side k j

/-! ## The environment -/

/-- The free chip state the environment's move uses, one per transaction. -/
def State.envChip (side : Side) (s : State) : Chip := Config.freeChip side (2 * s.draws)

/-- The free chip state the byte of a transaction uses, another one per transaction. -/
def State.byteChip (side : Side) (s : State) : Chip := Config.freeChip side (2 * s.draws + 1)

/-- What a set of the sixteen lines is at the master: its own lines, and line 2 on the slave's behalf if a slave-side
line is among them (R125). -/
def masterPart (lines : Half) : Byte := lo lines ||| (if hi lines = 0 then 0 else lo Config.cascadeBit)

/-- The lines of the master that block: those in service (R126), and those whose `EOI n` has not been submitted yet
(R148: "Until it is submitted the chip delivers nothing further on that line or, at the master, on lower-priority
lines"). -/
def State.masterBlocking (s : State) : Byte := s.master.isr ||| masterPart s.master.owed

/-- The lines of the slave that block. -/
def State.slaveBlocking (s : State) : Byte := s.slave.isr ||| hi s.slave.owed

/-- The lines that nothing in service blocks (R126, R128, R148). A slave-side line comes through line 2 of the master, so
it is blocked there too. -/
def State.unblockedLines (s : State) : Half :=
  pair (if (unblocked .master s.masterBlocking).getLsbD 2 then unblocked .slave s.slaveBlocking else 0)
    (unblocked .master s.masterBlocking)

/-- The lines the CPU may take: any of those the mask registers let through (R123) and nothing in service blocks, line 2
apart, which "has no device of its own" (R122). -/
def State.candidates (s : State) : Half :=
  Config.freeTaken s.draws &&& deliverable s.master.imr s.slave.imr &&& s.unblockedLines &&& ~~~Config.cascadeBit

/-- The lines newly taken into service: any of the master's, and of the slave's at most one, for line 2 is then in
service at the master and blocks the others (R125, R126). -/
def State.taken (s : State) : Half :=
  pair (oneOf (Config.freePick (3 * s.draws + 2)) (hi s.candidates)) (lo s.candidates)

/-- The environment's move before a port transaction: the chips' IRR and ISR "may change between any two port
transactions" (R22). The IRR becomes any value. The ISR keeps what is in service (R126: nothing but an
end-of-interrupt byte ends it) and gains the lines taken, each of which then waits for its EOI (R148); before INIT has
completed nothing is known of it (R34). Log entry 8. -/
def State.environment (s : State) : State :=
  if s.par.chipsPresent then
    match s.phase with
    | .uninitialized =>
      { s with
        master := { s.master with irr := (s.envChip .master).irr, isr := (s.envChip .master).isr }
        slave := { s.slave with irr := (s.envChip .slave).irr, isr := (s.envChip .slave).isr } }
    | .ready =>
      { s with
        master := { s.master with
          irr := (s.envChip .master).irr
          isr := s.master.isr ||| masterPart s.taken
          owed := s.master.owed ||| s.taken }
        slave := { s.slave with
          irr := (s.envChip .slave).irr
          isr := s.slave.isr ||| hi s.taken
          owed := s.slave.owed ||| pair (hi s.taken) 0 } }
  else s

/-! ## The end of an interrupt -/

/-- The line operand of the EOI command in progress. -/
def State.eoiLine (s : State) : Option Byte :=
  if s.busy then
    match readCmd s.cmd with
    | .ok (.eoi l) => some l
    | _ => none
  else none

/-- The line whose interrupt an end-of-interrupt byte acknowledges, as a bit of the sixteen (R105, R148): that of the EOI
in progress; of a row executed on its own, one of those the chip waits for (log entry 11). -/
def State.dueLine (pick : Nat) (owed : Half) (s : State) : Half :=
  match s.eoiLine with
  | some l => bitOf (lineOf l)
  | none => oneOf pick owed

/-- The master holds line 2 on the slave's behalf while a slave-side line is in service (R125). -/
def State.held (s : State) : Byte := if s.slave.isr = 0 then 0 else lo Config.cascadeBit

/-- What an end-of-interrupt byte leaves of the master. -/
def State.masterAcked (s : State) : Chip :=
  acknowledge (s.byteChip .master) (Config.freePick (3 * s.draws))
    (s.dueLine (Config.freePick (3 * s.draws)) s.master.owed) s.held s.master

/-- What an end-of-interrupt byte leaves of the slave. -/
def State.slaveAcked (s : State) : Chip :=
  acknowledge (s.byteChip .slave) (Config.freePick (3 * s.draws + 1))
    (s.dueLine (Config.freePick (3 * s.draws + 1)) s.slave.owed) 0 s.slave

/-! ## The two port primitives -/

/-- What a written byte does to the chips, if they exist (R50). -/
def State.chipsTake (p : Port) (v : Byte) (s : State) : State :=
  if s.par.chipsPresent then
    if p = Config.masterCmd then
      { s with master := takeCommand (s.byteChip .master) s.masterAcked v s.master }
    else if p = Config.masterData then
      { s with master := takeData s.par.icwPorts (s.byteChip .master) v s.master }
    else if p = Config.slaveCmd then
      { s with slave := takeCommand (s.byteChip .slave) s.slaveAcked v s.slave }
    else if p = Config.slaveData then
      { s with slave := takeData s.par.icwPorts (s.byteChip .slave) v s.slave }
    else s
  else s

/-- `PortWrite(p, v)` (R42): one event, no result, no failure. -/
def State.portWrite (p : Port) (v : Byte) (s : State) : State :=
  let e := s.environment
  let t := e.chipsTake p v
  { t with trace := t.trace ++ [.w p v], draws := t.draws + 1 }

/-- The register a chip has selected, if a responder is adopted (R21, R49; log entry 18). -/
def selected (c : Chip) : Option Byte :=
  match c.rsel with
  | .none => none
  | .irr => some c.irr
  | .isr => some c.isr

/-- The responder's answer to a read of a command port: the register selected there (R21). -/
def State.responderByte (p : Port) (s : State) : Option Byte :=
  if s.par.responder && s.par.chipsPresent then
    if p = Config.masterCmd then selected s.master
    else if p = Config.slaveCmd then selected s.slave
    else none
  else none

/-- The byte a read returns (R49): the next canned response, if there is one; else the responder's answer, if one is
adopted and a register is selected; else a draw. Log entry 7. -/
def State.readByte (p : Port) (s : State) : Byte :=
  match s.answers with
  | v :: _ => v
  | [] =>
    match s.responderByte p with
    | some v => v
    | none => Config.draw8 s.draws

/-- What a read does to the chip behind the port: whether it consumes the selection is not said (U5): any selector
state afterwards. Log entry 12. -/
def State.chipsAnswer (p : Port) (s : State) : State :=
  if s.par.chipsPresent then
    if p = Config.masterCmd then { s with master := { s.master with rsel := (s.byteChip .master).rsel } }
    else if p = Config.slaveCmd then { s with slave := { s.slave with rsel := (s.byteChip .slave).rsel } }
    else s
  else s

/-- `mb` is the byte read from 0x0020, `sb` the byte read from 0x00A0 (R112). -/
def State.latchByte (p : Port) (v : Byte) (s : State) : State :=
  if p = Config.masterCmd then { s with readM := v }
  else if p = Config.slaveCmd then { s with readS := v }
  else s

/-- `PortRead(p)` (R43): one event; the byte goes to READREG's temporary for that port. -/
def State.portRead (p : Port) (s : State) : State :=
  let e := s.environment
  let v := e.readByte p
  let t := (e.chipsAnswer p).latchByte p v
  { t with trace := t.trace ++ [.r p v], answers := t.answers.tail, draws := t.draws + 1 }

/-- One port transaction: the row's port operation (R66, R67). -/
def State.emit (i : Instr) (s : State) : State :=
  match portOp s.par.icwPorts i with
  | some (.write p v) => s.portWrite p v
  | some (.read p) => s.portRead p
  | none => s

/-- `mask_o`, the observer's view of the mask (R18, D19). -/
def State.maskO (s : State) : Half := s.irqMask

/-! ## Plain updates -/

/-- `irq_mask <- m`. -/
def State.setMask (m : Half) (s : State) : State := { s with irqMask := m }

/-- `phase <- p`. -/
def State.setPhase (p : Phase) (s : State) : State := { s with phase := p }

/-- `result <- v`. -/
def State.setResult (v : Half) (s : State) : State := { s with result := v }

/-- What is left of the transaction list. -/
def State.setTxns (l : List Instr) (s : State) : State := { s with txns := l }

/-- What the caller has still to submit. -/
def State.setStream (l : List Submission) (s : State) : State := { s with stream := l }

/-- `step <- step + 1` (R16). -/
def State.advance (s : State) : State := { s with step := s.step + 1 }

/-! ## Admission -/

/-- `refuse(reason)` (spec/00_scope.md section 6, R63): no state change, no port transaction, a mark. Log entry 13. -/
def State.refuse (r : Reject) (s : State) : State := { s with refusals := s.refusals ++ [r] }

/-- The checks of R63 that are not about the word alone, in their order: 1 re-entry, 4 the line (R64), 5 before INIT,
6 a second INIT. -/
def State.turnedAway (i : Instr) (s : State) : Option Reject :=
  if s.busy then some .reentry
  else if i = .init then (if s.phase = .ready then some .secondInit else none)
  else
    match i.line? with
    | some l =>
      if lineTaken s.par.lineOor l then (if s.phase = .uninitialized then some .beforeInit else none)
      else some .lineOutOfRange
    | none => if s.phase = .uninitialized then some .beforeInit else none

/-- `cmd <- w; busy <- 1; step <- 0` (R63). -/
def State.accept (w : Half) (s : State) : State := { s with cmd := w, busy := true, step := 0 }

/-! ## The end of a command -/

/-- What the last micro-step of a command does besides its port transaction: INIT sets `phase` (R80, R85), RDIRR and
RDISR set `result` (R112, R115). -/
def State.complete (s : State) : State :=
  match readCmd s.cmd with
  | .ok .init => s.setPhase .ready
  | .ok .rdirr => s.setResult (pair s.readS s.readM)
  | .ok .rdisr => s.setResult (pair s.readS s.readM)
  | _ => s

/-- `busy <- 0; step <- 0`. -/
def State.release (s : State) : State := { s with busy := false, step := 0 }

/-- After a port transaction: `step` advances by one, or the command ends when its list is empty (R16). -/
def State.retire (s : State) : State :=
  match s.txns with
  | [] => s.complete.release
  | _ :: _ => s.advance

/-- Every transaction of a list in order, each finished before the next begins (R51). -/
def State.runTxns : List Instr → State → State
  | [], s => s
  | i :: rest, s => State.runTxns rest (State.retire (State.emit i (s.setTxns rest)))

/-- Submitting a decoded command (R63): turned away with a mark, or accepted. With `Grain.microStep` the accepted
command then waits at step 0 for its micro-steps; with `Grain.atomic` step 0, here `zero`, and every transaction of
the list it builds run at once (R16, D4; log entry 15). -/
def State.perform (i : Instr) (zero : State → State) (s : State) : State :=
  match s.turnedAway i with
  | some r => s.refuse r
  | none =>
    match s.par.grain with
    | .microStep => s.accept (encodeCmd i)
    | .atomic => State.runTxns (zero (s.accept (encodeCmd i))).txns (zero (s.accept (encodeCmd i)))

/-- The end of step 0: the list it has built is held, and `step` advances to 1 (R16). -/
def State.schedule (list : List Instr) (s : State) : State := { s with step := 1, txns := list }

end Sys2Proof.Machine
end

