-- ==== Sys2Proof/Machine/DiagReads.lean ====
section
/-!
DEFINITION. Family diagnostic reads: RDIRR and RDISR (spec/43_diag_reads.md). The selector goes to the master's
command port twice and never to the slave's (R113, R114).
-/
namespace Sys2Proof.Machine

/-- The two reads in the order `READ_ORDER` gives (R112, spec/20_memory.md R47). -/
def readTxns (order : ReadOrder) : List Instr :=
  match order with
  | .masterFirst => [.rdM, .rdS]
  | .slaveFirst => [.rdS, .rdM]

/-- READREG's transactions for a selector row (R112). -/
def readRegTxns (sel : Instr) (order : ReadOrder) : List Instr := [sel, sel] ++ readTxns order

/-- RDIRR's step 0: no state change (R110, R112). -/
def rdirrZero (s : State) : State := s.schedule (readRegTxns .selIrr s.par.readOrder)

/-- RDISR's step 0: no state change (R111, R112). -/
def rdisrZero (s : State) : State := s.schedule (readRegTxns .selIsr s.par.readOrder)

/-- RDIRR (R110). -/
def execRdirr (s : State) : Host.Outcome State Fault Refusal := .next (s.perform .rdirr rdirrZero)

/-- RDISR (R111). -/
def execRdisr (s : State) : Host.Outcome State Fault Refusal := .next (s.perform .rdisr rdisrZero)

end Sys2Proof.Machine
end

