-- ==== Sys2Proof/Machine/Eoi.lean ====
section
/-!
DEFINITION. Family acknowledge: EOI (spec/42_eoi.md).
-/
namespace Sys2Proof.Machine

/-- EOI's writes: for a slave-side line the slave first, then the master; else the master only (R105, R106). -/
def eoiTxns (line8 : Byte) : List Instr :=
  if slaveSide (lineOf line8) then [.eoiS, .eoiM] else [.eoiM]

/-- EOI's step 0: no state change, the list is chosen (R105). -/
def eoiZero (line8 : Byte) (s : State) : State := s.schedule (eoiTxns line8)

/-- EOI n (R105). -/
def execEoi (line8 : Byte) (s : State) : Host.Outcome State Fault Refusal :=
  .next (s.perform (.eoi line8) (eoiZero line8))

end Sys2Proof.Machine
end

