-- ==== Sys2Proof/Machine/Init.lean ====
section
/-!
DEFINITION. Family initialisation: INIT (spec/40_init.md).
-/
namespace Sys2Proof.Machine

/-- `FLUSH(m)`: the low byte to the master's data port, then the high byte to the slave's (R92, R46). -/
def flushTxns (m : Half) : List Instr := [.maskM (lo m), .maskS (hi m)]

/-- INIT's ten writes in their order (R80 steps 1 to 10, R81, R87). -/
def initTxns : List Instr :=
  [.icw1M, .icw2M, .icw3M, .icw4M, .icw1S, .icw2S, .icw3S, .icw4S] ++ flushTxns Config.maskBaseline

/-- INIT's step 0: `irq_mask <- 0xFFFB` (R80, R83). -/
def initZero (s : State) : State := (s.setMask Config.maskBaseline).schedule initTxns

/-- INIT (R80). -/
def execInit (s : State) : Host.Outcome State Fault Refusal := .next (s.perform .init initZero)

end Sys2Proof.Machine
end

