-- ==== Sys2Proof/Machine/MaskOps.lean ====
section
/-!
DEFINITION. Family mask operations: ENABLE and DISABLE (spec/41_mask_ops.md). The complete new mask is stored before
the first write, and both writes are taken from it (R92, spec/20_memory.md R53); no write is suppressed (R93).
-/
namespace Sys2Proof.Machine

/-- ENABLE's step 0 (R90). -/
def enableZero (line8 : Byte) (s : State) : State :=
  let m2 := enableMask (lineOf line8) s.irqMask
  (s.setMask m2).schedule (flushTxns m2)

/-- DISABLE's step 0 (R91). -/
def disableZero (line8 : Byte) (s : State) : State :=
  let m2 := disableMask (lineOf line8) s.irqMask
  (s.setMask m2).schedule (flushTxns m2)

/-- ENABLE n (R90). -/
def execEnable (line8 : Byte) (s : State) : Host.Outcome State Fault Refusal :=
  .next (s.perform (.enable line8) (enableZero line8))

/-- DISABLE n (R91). -/
def execDisable (line8 : Byte) (s : State) : Host.Outcome State Fault Refusal :=
  .next (s.perform (.disable line8) (disableZero line8))

end Sys2Proof.Machine
end

