-- ==== Sys2Proof/Machine/Transactions.lean ====
section
/-!
DEFINITION. The sixteen port-transaction rows of spec/opcode_table.json: each is one port transaction, its port and
byte as in R66 and R67 (`portOp`). A row is not submitted by a caller; the sequencer runs it (spec/10_state.md R16).
None of them can fail (spec/20_memory.md R42, R43).
-/
namespace Sys2Proof.Machine

/-- ICW1.M: the master's ICW1 to its command port (R80 step 1). -/
def execIcw1M (s : State) : Host.Outcome State Fault Refusal := .next (s.emit .icw1M)

/-- ICW2.M: the master's ICW2 (R80 step 2, port by R82). -/
def execIcw2M (s : State) : Host.Outcome State Fault Refusal := .next (s.emit .icw2M)

/-- ICW3.M: the master's ICW3 (R80 step 3, port by R82). -/
def execIcw3M (s : State) : Host.Outcome State Fault Refusal := .next (s.emit .icw3M)

/-- ICW4.M: the master's ICW4 (R80 step 4, port by R82). -/
def execIcw4M (s : State) : Host.Outcome State Fault Refusal := .next (s.emit .icw4M)

/-- ICW1.S: the slave's ICW1 to its command port (R80 step 5). -/
def execIcw1S (s : State) : Host.Outcome State Fault Refusal := .next (s.emit .icw1S)

/-- ICW2.S: the slave's ICW2 (R80 step 6, port by R82). -/
def execIcw2S (s : State) : Host.Outcome State Fault Refusal := .next (s.emit .icw2S)

/-- ICW3.S: the slave's ICW3 (R80 step 7, port by R82). -/
def execIcw3S (s : State) : Host.Outcome State Fault Refusal := .next (s.emit .icw3S)

/-- ICW4.S: the slave's ICW4 (R80 step 8, port by R82). -/
def execIcw4S (s : State) : Host.Outcome State Fault Refusal := .next (s.emit .icw4S)

/-- MASK.M v: a mask byte to the master's data port (R92). -/
def execMaskM (v : Byte) (s : State) : Host.Outcome State Fault Refusal := .next (s.emit (.maskM v))

/-- MASK.S v: a mask byte to the slave's data port (R92). -/
def execMaskS (v : Byte) (s : State) : Host.Outcome State Fault Refusal := .next (s.emit (.maskS v))

/-- EOI.S: the end-of-interrupt byte to the slave's command port (R105, R108). -/
def execEoiS (s : State) : Host.Outcome State Fault Refusal := .next (s.emit .eoiS)

/-- EOI.M: the end-of-interrupt byte to the master's command port (R105, R108). -/
def execEoiM (s : State) : Host.Outcome State Fault Refusal := .next (s.emit .eoiM)

/-- SEL.IRR: the read-IRR selector to the master's command port (R112, R21). -/
def execSelIrr (s : State) : Host.Outcome State Fault Refusal := .next (s.emit .selIrr)

/-- SEL.ISR: the read-ISR selector to the master's command port (R112, R21). -/
def execSelIsr (s : State) : Host.Outcome State Fault Refusal := .next (s.emit .selIsr)

/-- RD.M: one byte read from the master's command port (R112, R49). -/
def execRdM (s : State) : Host.Outcome State Fault Refusal := .next (s.emit .rdM)

/-- RD.S: one byte read from the slave's command port (R112, R49). -/
def execRdS (s : State) : Host.Outcome State Fault Refusal := .next (s.emit .rdS)

end Sys2Proof.Machine
end

