-- ==== Sys2Proof/Machine/Sequencer.lean ====
section
/-!
DEFINITION. What the next step runs (spec/10_state.md R16, spec/30_encoding.md R63): the next submission, the internal
step 0, or the next transaction of the list; and where the host places an instruction so that it comes next.
-/
namespace Sys2Proof.Machine

/-- Step 0 of a command: "decode, compute the new mask, write `irq_mask`" and build the transaction list (R16, D14). A
port transaction is no command and builds none. -/
def State.stepZero (i : Instr) (s : State) : State :=
  match i with
  | .init => initZero s
  | .enable l => enableZero l s
  | .disable l => disableZero l s
  | .eoi l => eoiZero l s
  | .rdirr => rdirrZero s
  | .rdisr => rdisrZero s
  | _ => s.schedule []

/-- A submission that comes while a command is in progress (R121, R143): the caller did not wait, and as many
micro-steps as it let pass have passed. What is left is the rest of the stream. Log entry 14. -/
def State.intruder (s : State) : Option (List Submission) :=
  if s.busy then
    match s.stream with
    | ⟨_, .afterMicroSteps 0⟩ :: rest => some rest
    | _ => none
  else none

/-- One micro-step has passed for a caller that does not wait. -/
def tick : List Submission → List Submission
  | ⟨w, .afterMicroSteps (k + 1)⟩ :: rest => ⟨w, .afterMicroSteps k⟩ :: rest
  | other => other

/-- What the next step runs. -/
inductive Fetched where
  /-- A submitted command, to be executed at the state that has taken it from the stream. -/
  | command (i : Instr) (s : State)
  /-- The next transaction, to be executed at the state that has taken it from the list. -/
  | transaction (i : Instr) (s : State)
  /-- No instruction runs: a refused submission, the internal step 0, or idling. -/
  | done (s : State)
  /-- No next micro-step exists (log entry 20). -/
  | lost

/-- The next submission of an idle block (R63 checks 2 and 3; the others are the command's own). With nothing left to
submit the block idles: the run has ended (D21; log entry 16). -/
def State.fetchCommand (s : State) : Fetched :=
  match s.stream with
  | [] => .done s
  | a :: rest =>
    match readCmd a.word with
    | .ok i => .command i (s.setStream rest)
    | .error r => .done (State.refuse r (s.setStream rest))

/-- The next micro-step of the command in progress (R16). -/
def State.fetchMicroStep (s : State) : Fetched :=
  if s.step = 0 then
    match readCmd s.cmd with
    | .ok i => .done (State.stepZero i (s.setStream (tick s.stream)))
    | .error _ => .lost
  else
    match s.txns with
    | [] => .lost
    | i :: rest => .transaction i ((s.setStream (tick s.stream)).setTxns rest)

/-- What the next step runs. R63 check 1 comes before any other: a word submitted while `busy` is refused as
re-entry, whatever it is. -/
def State.fetch (s : State) : Fetched :=
  match s.intruder with
  | some rest => .done (State.refuse .reentry (s.setStream rest))
  | none => if s.busy then s.fetchMicroStep else s.fetchCommand

/-- The machine idle, with a command word next in the stream (log entry 6). -/
def State.placeCommand (w : Half) (s : State) : State :=
  { s with busy := false, step := 0, txns := [], stream := ⟨w, .whenIdle⟩ :: s.stream }

/-- The machine in the midst of a sequence, with one transaction left in the list. The latched word is the reserved
0x0000, so that the end of the list completes no command, and the stream is empty, so that no re-entry comes first
(log entry 6). -/
def State.placeTxn (i : Instr) (s : State) : State :=
  { s with busy := true, cmd := 0x0000, step := 1, txns := [i], stream := [] }

/-- The instruction a table word stands for, placed where the next step takes it from; a 16-bit word that stands for
none is a submitted word all the same, and a 24-bit one reaches PICSEQ nowhere. -/
def State.place (nbits w : Nat) (s : State) : State :=
  match decodeTableWord nbits w with
  | some i => if i.isCommand then s.placeCommand (BitVec.ofNat 16 w) else s.placeTxn i
  | none => if nbits = 16 then s.placeCommand (BitVec.ofNat 16 w) else s

end Sys2Proof.Machine
end

