-- ==== Sys2Proof/Machine/Dispatch.lean ====
section
/-!
DEFINITION. One arm per constructor of Instr: the meaning of each instruction.
-/
namespace Sys2Proof.Machine

/-- The meaning of an instruction at a state. -/
def exec (i : Instr) (s : State) : Host.Outcome State Fault Refusal :=
  match i with
  | .init => Sys2Proof.Machine.execInit s
  | .enable l => Sys2Proof.Machine.execEnable l s
  | .disable l => Sys2Proof.Machine.execDisable l s
  | .eoi l => Sys2Proof.Machine.execEoi l s
  | .rdirr => Sys2Proof.Machine.execRdirr s
  | .rdisr => Sys2Proof.Machine.execRdisr s
  | .icw1M => Sys2Proof.Machine.execIcw1M s
  | .icw2M => Sys2Proof.Machine.execIcw2M s
  | .icw3M => Sys2Proof.Machine.execIcw3M s
  | .icw4M => Sys2Proof.Machine.execIcw4M s
  | .icw1S => Sys2Proof.Machine.execIcw1S s
  | .icw2S => Sys2Proof.Machine.execIcw2S s
  | .icw3S => Sys2Proof.Machine.execIcw3S s
  | .icw4S => Sys2Proof.Machine.execIcw4S s
  | .maskM v => Sys2Proof.Machine.execMaskM v s
  | .maskS v => Sys2Proof.Machine.execMaskS v s
  | .eoiS => Sys2Proof.Machine.execEoiS s
  | .eoiM => Sys2Proof.Machine.execEoiM s
  | .selIrr => Sys2Proof.Machine.execSelIrr s
  | .selIsr => Sys2Proof.Machine.execSelIsr s
  | .rdM => Sys2Proof.Machine.execRdM s
  | .rdS => Sys2Proof.Machine.execRdS s

end Sys2Proof.Machine
end

