-- ==== Sys2Proof/Machine/Step.lean ====
section
/-!
DEFINITION. One step of the machine: one submission, or one micro-step of the command in progress
(spec/10_state.md R16).
-/
namespace Sys2Proof.Machine

/-- One step. After a transaction the sequencer moves on (`State.retire`); after a command nothing is added. -/
def step (s : State) : Host.Outcome State Fault Refusal :=
  match s.fetch with
  | .command i t => exec i t
  | .transaction i t =>
    match exec i t with
    | .next u => .next u.retire
    | .fault f => .fault f
    | .refused r => .refused r
  | .done t => .next t
  | .lost => .fault .sequenceLost

/-- `s` with the instruction of a table word placed where the next step takes it from. -/
def State.withFetchWord (s : State) (nbits w : Nat) : State := s.place nbits w

end Sys2Proof.Machine
end

