-- ==== Sys2Proof/Safety.lean ====
section
/-!
DEFINITION. What claims about runs are stated in: the two halves of the cascade-line invariant (spec/10_state.md R25),
mirror coherence (R24), the sequencer's own invariant (R16), which events a trace may hold (spec/30_encoding.md R65 to
R67), and when a run has ended and means anything about the hardware (spec/00_scope.md section 6, D21).
-/
namespace Sys2Proof.Machine

/-! ## The mask -/

/-- INV-A (R25): a slave-side line enabled implies the cascade line enabled. -/
abbrev invA (m : Half) : Prop := hi m ≠ 0xFF → m.getLsbD 2 = false

/-- INV-B (R25): every slave-side line masked implies the cascade line masked. -/
abbrev invB (m : Half) : Prop := hi m = 0xFF → m.getLsbD 2 = true

/-! ## The sequencer -/

/-- The transaction list of a command, from the state after its step 0. -/
def txnsOf (i : Instr) (s : State) : List Instr :=
  match i with
  | .init => initTxns
  | .enable _ | .disable _ => flushTxns s.irqMask
  | .eoi l => eoiTxns l
  | .rdirr => readRegTxns .selIrr s.par.readOrder
  | .rdisr => readRegTxns .selIsr s.par.readOrder
  | _ => []

/-- A busy state's place in its command: the latched word is the command `i`, INIT exactly while `phase` is
Uninitialized, and what is left of the list is the list of `i` from micro-step `step` on. -/
structure State.Within (s : State) (i : Instr) : Prop where
  word : readCmd s.cmd = .ok i
  phase : i = .init ↔ s.phase = .uninitialized
  baseline : i = .init → s.step ≠ 0 → s.irqMask = Config.maskBaseline
  list : s.txns = if s.step = 0 then [] else (txnsOf i s).drop (s.step - 1)
  range : s.step ≤ (txnsOf i s).length

/-- The sequencer's invariant (R16, R32): idle, with `step = 0` and no list, or within a command. -/
def State.Sequenced (s : State) : Prop :=
  if s.busy then ∃ i, s.Within i else s.step = 0 ∧ s.txns = []

/-! ## The chips -/

/-- Mirror coherence (R24): the hardware mask registers hold what `irq_mask` says, and the chips are outside any
initialisation sequence. -/
structure State.Mirrors (s : State) : Prop where
  masterSeq : s.master.icwStep = 0
  slaveSeq : s.slave.icwStep = 0
  masterMask : s.master.imr = lo s.irqMask
  slaveMask : s.slave.imr = hi s.irqMask

/-- What the chips hold within INIT before its micro-step `k` (R88: "each chip has consumed exactly its four control
words" before step 9). -/
structure State.InitProgress (s : State) (k : Nat) : Prop where
  masterSeq : 2 ≤ k → s.master.icwStep.val = 5 - k
  slaveSeq : 6 ≤ k → s.slave.icwStep.val = 9 - k
  masterMask : 10 ≤ k → s.master.imr = lo s.irqMask

/-- What the chips hold within ENABLE or DISABLE before its micro-step `k`: the mirror is whole before the new mask is
computed, the slave's register is behind until step 2 has run (R146). -/
structure State.FlushProgress (s : State) (k : Nat) : Prop where
  masterSeq : s.master.icwStep = 0
  slaveSeq : s.slave.icwStep = 0
  masterMask : k ≠ 1 → s.master.imr = lo s.irqMask
  slaveMask : k = 0 → s.slave.imr = hi s.irqMask

/-- Mirror coherence as an invariant of every micro-step, for chips that exist and take ICW2 to ICW4 where INIT writes
them (decision D1; log entry 10): kept by the sequence (R24, R88, R146). -/
def State.Coherent (s : State) : Prop :=
  s.Sequenced ∧
  (s.par.chipsPresent = true → s.par.icwPorts = .split →
    if s.busy then
      ∀ i, readCmd s.cmd = .ok i →
        match i with
        | .init => s.InitProgress s.step
        | .enable _ => s.FlushProgress s.step
        | .disable _ => s.FlushProgress s.step
        | _ => s.Mirrors
    else s.phase = .ready → s.Mirrors)

/-- Two states in which PICSEQ itself is the same, whatever the chips are and whether they exist. -/
structure State.SamePicseq (s t : State) : Prop where
  irqMask : s.irqMask = t.irqMask
  phase : s.phase = t.phase
  result : s.result = t.result
  busy : s.busy = t.busy
  cmd : s.cmd = t.cmd
  step : s.step = t.step
  txns : s.txns = t.txns
  readM : s.readM = t.readM
  readS : s.readS = t.readS
  trace : s.trace = t.trace
  refusals : s.refusals = t.refusals
  stream : s.stream = t.stream
  answers : s.answers = t.answers
  draws : s.draws = t.draws
  par : { s.par with chipsPresent := true } = { t.par with chipsPresent := true }

/-! ## The trace -/

/-- The events PICSEQ can put on the port bus (R65 to R67): the words of the sixteen rows. -/
def legalEvent (ports : IcwPorts) : PortEvent → Prop
  | .w p v => ∃ i, portOp ports i = some (.write p v)
  | .r p _ => ∃ i, portOp ports i = some (.read p)

/-- A trace of such events only. -/
def State.LegalTrace (s : State) : Prop := ∀ e ∈ s.trace, legalEvent s.par.icwPorts e

/-! ## Runs -/

/-- The end of a run: the stream is exhausted and `busy = 0` (D21). -/
def State.ended (s : State) : Bool := s.stream.isEmpty && !s.busy

/-- No submission of the run was refused. "A claim about the hardware is not drawn from a run that contains a refusal"
(spec/95_test_vectors.md, program 5): such a claim carries this as a premise (log entry 13). -/
def State.clean (s : State) : Bool := s.refusals.isEmpty

/-- The step stops: a fault or a refusal. -/
def stops (s : State) : Bool :=
  match step s with
  | .next _ => false
  | _ => true

end Sys2Proof.Machine
end

