-- ==== Sys2Proof/Certificates/Slice0/Obligations.lean ====
section
/-!
DEFINITION. What is to be proved of the model, from the numbered rules of spec/. Every def states and none proves. A
rule that the spec marks as its own decision or inference is named as such in the docstring of the statement that rests
on it, and such a statement has basis 'derived' in OBLIGATIONS.json.
-/
namespace Sys2Proof.Claims

open Sys2Proof Sys2Proof.Machine

/-! ## Words shared by the statements -/

/-- PICSEQ's own registers, and the caller's stream and the marks, are the same: what a port-transaction row leaves
unchanged, READREG's temporaries and the canned responses apart (`NoRead`). -/
structure SameBlock (s t : State) : Prop where
  par : t.par = s.par
  irqMask : t.irqMask = s.irqMask
  phase : t.phase = s.phase
  result : t.result = s.result
  busy : t.busy = s.busy
  cmd : t.cmd = s.cmd
  step : t.step = s.step
  txns : t.txns = s.txns
  refusals : t.refusals = s.refusals
  stream : t.stream = s.stream

/-- READREG's temporaries and the canned responses are untouched: no read took place. -/
structure NoRead (s t : State) : Prop where
  readM : t.readM = s.readM
  readS : t.readS = s.readS
  answers : t.answers = s.answers

/-- A whole command has run: idle again, nothing left of its list, and nothing of the caller's or the model's own
bookkeeping touched. -/
structure Completed (s t : State) (word : Half) (transactions : Nat) : Prop where
  busy : t.busy = false
  step : t.step = 0
  txns : t.txns = []
  cmd : t.cmd = word
  par : t.par = s.par
  refusals : t.refusals = s.refusals
  stream : t.stream = s.stream
  draws : t.draws = s.draws + transactions

/-- The line number a line operand stands for, as a number 0 to 15. -/
def lineNo (l : Byte) : Nat := l.toNat % 16

/-- The word of a command with an operand: the operation code above the line operand (R60, R61). -/
def lineWord (op l : Byte) : Half := op ++ l

/-- `bit(n)` of the line a line operand stands for (R62). -/
def lineBit (l : Byte) : Half := (1 : Half) <<< lineNo l

/-- The mask ENABLE leaves, as R90 writes it. -/
def afterEnable (l : Byte) (m : Half) : Half :=
  if 8 ≤ lineNo l then m &&& ~~~lineBit l &&& ~~~(0x0004 : Half) else m &&& ~~~lineBit l

/-- The mask DISABLE leaves, as R91 writes it. -/
def afterDisable (l : Byte) (m : Half) : Half :=
  if (m ||| lineBit l).extractLsb' 8 8 = (0xFF : Byte) then m ||| lineBit l ||| (0x0004 : Half) else m ||| lineBit l

/-- The condition under which a command other than INIT executes as one atomic step: idle, Ready, the grain atomic. -/
def ReadyAtomic (s : State) : Prop := s.busy = false ∧ s.phase = .ready ∧ s.par.grain = .atomic

/-- A line operand that is not turned away: 0 to 15, or any under `LINE_OOR = mod16` (R64). -/
def LineOk (s : State) (l : Byte) : Prop := l.toNat < 16 ∨ s.par.lineOor = .mod16

/-- The caller does not break in on the next step: no submission that does not wait is due. -/
def Undisturbed (s : State) : Prop := ∀ w rest, s.stream ≠ ⟨w, .afterMicroSteps 0⟩ :: rest

/-- The caller waits until the block is idle, or has nothing more to submit. -/
def Patient (l : List Submission) : Prop := l = [] ∨ ∃ w rest, l = ⟨w, .whenIdle⟩ :: rest

/-- The chips exist and neither is inside an initialisation sequence. -/
structure ChipsUp (s : State) : Prop where
  present : s.par.chipsPresent = true
  masterSeq : s.master.icwStep = 0
  slaveSeq : s.slave.icwStep = 0

/-- Every bit set in `a` is set in `b`. -/
def SubBits (a b : Byte) : Prop := ∀ k : Nat, a.getLsbD k = true → b.getLsbD k = true

/-- One bit of a chip's ISR is cleared, and no other changes (R108). -/
def OneServiceEnded (before after : Byte) : Prop :=
  ∃ n, n < 8 ∧ before.getLsbD n = true ∧ ∀ b, after.getLsbD b = (before.getLsbD b && decide (b ≠ n))

/-- The mask register, the sequence position and the configuration of a chip are the same (R23, R107). -/
structure ConfigKept (c d : Chip) : Prop where
  imr : d.imr = c.imr
  icwStep : d.icwStep = c.icwStep
  vbase : d.vbase = c.vbase
  cascade : d.cascade = c.cascade
  mode : d.mode = c.mode

/-- The next end-of-interrupt byte is for an interrupt that was taken and that the chip, with its `owed`, still waits for
(R148): the one of the EOI in progress, or outside an EOI any of them. The other cases are those of U9 (log entries 11
and 28). -/
def Awaited (s : State) (owed : Half) : Prop :=
  (s.busy = true ∧ ∃ l, s.cmd = lineWord 0x04 l ∧ owed.getLsbD (lineNo l) = true) ∨
  ((s.busy = false ∨ ∀ l, s.cmd ≠ lineWord 0x04 l) ∧ owed ≠ 0)

/-- The chip has had the EOI of one line it waited for: that of the EOI in progress, if one is. -/
def OwesOneLess (s : State) (before after : Half) : Prop :=
  ∃ k, before.getLsbD k = true ∧ after = before &&& ~~~((1 : Half) <<< k) ∧
    ∀ l, s.busy = true → s.cmd = lineWord 0x04 l → k = lineNo l

/-- What the two mask registers say of the sixteen lines. -/
def chipMask (s : State) : Half := s.slave.imr ++ s.master.imr

/-- R146's window between the two mask writes: the master holds its byte of `new`, the slave its byte of `old`; a
master-side line is deliverable exactly if `new` enables it, a slave-side line exactly if `old` enables it and `new` has
the cascade open, and no line disabled in both is. -/
def Window (old new : Half) (t : State) : Prop :=
  t.master.imr = new.extractLsb' 0 8 ∧ t.slave.imr = old.extractLsb' 8 8 ∧
  ∀ n, n < 16 →
    ((deliverable t.master.imr t.slave.imr).getLsbD n =
      if n < 8 then !new.getLsbD n else !old.getLsbD n && !new.getLsbD 2) ∧
    (old.getLsbD n = true → new.getLsbD n = true → (deliverable t.master.imr t.slave.imr).getLsbD n = false)

/-- The order of R63's checks, read from the rule: the refusal of a word submitted at a state, or none. -/
def admission (s : State) (w : Half) : Option Reject :=
  if s.busy = true then some .reentry
  else if w.toNat / 256 = 0 ∨ 7 ≤ w.toNat / 256 then some .reservedOp
  else if (w.toNat / 256 = 1 ∨ w.toNat / 256 = 5 ∨ w.toNat / 256 = 6) ∧ w.toNat % 256 ≠ 0 then some .reservedOperand
  else if (w.toNat / 256 = 2 ∨ w.toNat / 256 = 3 ∨ w.toNat / 256 = 4) ∧ 16 ≤ w.toNat % 256 ∧ s.par.lineOor = .refuse then
    some .lineOutOfRange
  else if w.toNat / 256 ≠ 1 ∧ s.phase = .uninitialized then some .beforeInit
  else if w.toNat / 256 = 1 ∧ s.phase = .ready then some .secondInit
  else none

/-- The port and the byte of each port-write row with the documented ICW ports, copied from the rows of
spec/opcode_table.json. -/
def rowWrite : Instr → Option (Port × Byte)
  | .icw1M => some (0x0020, 0x11)
  | .icw2M => some (0x0021, 0x20)
  | .icw3M => some (0x0021, 0x04)
  | .icw4M => some (0x0021, 0x01)
  | .icw1S => some (0x00A0, 0x11)
  | .icw2S => some (0x00A1, 0x28)
  | .icw3S => some (0x00A1, 0x02)
  | .icw4S => some (0x00A1, 0x01)
  | .maskM v => some (0x0021, v)
  | .maskS v => some (0x00A1, v)
  | .eoiS => some (0x00A0, 0x20)
  | .eoiM => some (0x0020, 0x20)
  | .selIrr => some (0x0020, 0x0A)
  | .selIsr => some (0x0020, 0x0B)
  | _ => none

/-- The same with `ICW_PORTS = all_command`: ICW2 to ICW4 go to the chip's command port (R82). -/
def rowWriteOn (ports : IcwPorts) (i : Instr) : Option (Port × Byte) :=
  match rowWrite i with
  | some (p, v) =>
    if ports = .allCommand ∧ i.atIcwPosition = true then some (if p = 0x0021 then 0x0020 else 0x00A0, v)
    else some (p, v)
  | none => none

/-- The ten bytes INIT writes, in order, with the port each goes to (R80; the ports by R82). -/
def initEvents (ports : IcwPorts) : List PortEvent :=
  let m : Port := if ports = .split then 0x0021 else 0x0020
  let s : Port := if ports = .split then 0x00A1 else 0x00A0
  [.w 0x0020 0x11, .w m 0x20, .w m 0x04, .w m 0x01, .w 0x00A0 0x11, .w s 0x28, .w s 0x02, .w s 0x01,
   .w 0x0021 0xFB, .w 0x00A1 0xFF]

/-- How many port transactions a command makes (R16). -/
def transactionCount : Instr → Nat
  | .init => 10
  | .enable _ | .disable _ => 2
  | .eoi l => if 8 ≤ lineNo l then 2 else 1
  | .rdirr | .rdisr => 4
  | _ => 0

/-- Commands executed one after another, as the caller submits them. -/
def execAll : List Instr → State → Option State
  | [], s => some s
  | i :: rest, s =>
    match exec i s with
    | .next t => execAll rest t
    | _ => none

/-- So many steps one after another, or none if one of them stops. -/
def runSteps : Nat → State → Option State
  | 0, s => some s
  | k + 1, s =>
    match Machine.step s with
    | .next t => runSteps k t
    | _ => none

/-- The same state run at the other grain. -/
def atGrain (g : Grain) (s : State) : State := { s with par := { s.par with grain := g } }

end Sys2Proof.Claims

open Sys2Proof Sys2Proof.Machine Sys2Proof.Claims

/-! ## Reset -/

/-- R31. -/
def Obligations.PhaseAtReset : Prop := ∀ p : Params, (State.resetWith p).phase = .uninitialized

/-- R30, R31, R32, R140: the values the spec gives for reset. The default of `MASK_RESET` is decision D10. -/
def Obligations.ResetValues : Prop :=
  (∀ p : Params, (State.resetWith p).irqMask = p.maskReset) ∧
  State.reset.irqMask = 0xFFFF ∧ State.reset.phase = .uninitialized ∧ State.reset.busy = false ∧
  State.reset.step = 0 ∧ State.reset.trace = [] ∧ State.reset.refusals = []

/-! ## Encodings -/

/-- A few words written out from the rows of the opcode table (R61 and R66), each read as its row. 0x002120 is a word of
ICW2.M and of MASK.M 0x20, which only the position tells apart (R67): that it is read as ICW2.M is the model's choice (log
entry 21). -/
def Obligations.TableWordsDecode : Prop :=
  decodeTableWord 16 0x0100 = some .init ∧ decodeTableWord 16 0x0209 = some (.enable 9) ∧
  decodeTableWord 16 0x030F = some (.disable 15) ∧ decodeTableWord 16 0x040C = some (.eoi 12) ∧
  decodeTableWord 16 0x0600 = some .rdisr ∧ decodeTableWord 24 0x002120 = some .icw2M ∧
  decodeTableWord 24 0x00A1FF = some (.maskS 0xFF) ∧ decodeTableWord 24 0x00200B = some .selIsr ∧
  decodeTableWord 16 0x00A0 = some .rdS ∧ decodeTableWord 16 0x0210 = none

/-- Decoding an encoded well-formed instruction gives it back, for every operand, for both values of `ICW_PORTS`, at
the position in the sequence at which the row stands (R60, R61, R65, R67). -/
def Obligations.EncodeThenDecode : Prop :=
  ∀ (ports : IcwPorts) (i : Instr), i.wf = true →
    decode ports i.atIcwPosition (encode ports i) = .ok i

/-- The other direction: a word that decodes is the word of the instruction it decodes to, which is well-formed, and
of no other. -/
def Obligations.DecodeThenEncode : Prop :=
  ∀ (ports : IcwPorts) (icw : Bool) (c : CodeWord) (i : Instr),
    decode ports icw c = .ok i → encode ports i = c ∧ i.wf = true

/-- Which command words are no row's word, and under which name each is rejected (R61, R63 checks 2 to 4). -/
def Obligations.ReservedWordsRejected : Prop :=
  ∀ w : Half,
    (decodeCmd w = .error .reservedOp ↔ w.toNat / 256 = 0 ∨ 7 ≤ w.toNat / 256) ∧
    (decodeCmd w = .error .reservedOperand ↔
      (w.toNat / 256 = 1 ∨ w.toNat / 256 = 5 ∨ w.toNat / 256 = 6) ∧ w.toNat % 256 ≠ 0) ∧
    (decodeCmd w = .error .lineOutOfRange ↔
      (w.toNat / 256 = 2 ∨ w.toNat / 256 = 3 ∨ w.toNat / 256 = 4) ∧ 16 ≤ w.toNat % 256) ∧
    (∀ r, decodeCmd w = .error r → r = .reservedOp ∨ r = .reservedOperand ∨ r = .lineOutOfRange)

/-! ## The step -/

/-- An idle step whose next submission reads as the command `i` is `exec i` at the state that has taken the submission,
and nothing is added. For a word of a row, `decodeCmd` and `readCmd` agree. -/
def Obligations.StepRunsSubmittedCommand : Prop :=
  ∀ (s : State) (a : Submission) (rest : List Submission) (i : Instr),
    s.busy = false → s.stream = a :: rest →
    (readCmd a.word = .ok i → step s = exec i { s with stream := rest }) ∧
    (decodeCmd a.word = .ok i → readCmd a.word = .ok i)

/-- A busy step past step 0 is `exec` of the next transaction at the state that has taken it from the list, and then
the sequencer moves on: to the next micro-step, or out of the command (R16). That the submission of a caller that does not
wait comes one micro-step nearer with it (`tick`) is the model's choice (log entry 14). -/
def Obligations.StepRunsTransaction : Prop :=
  ∀ (s : State) (i : Instr) (rest : List Instr),
    s.busy = true → s.step ≠ 0 → s.txns = i :: rest → Undisturbed s →
    ∀ t, exec i { s with txns := rest, stream := tick s.stream } = .next t → step s = .next t.retire

/-- What ends a command (R80, R112, R115): the list is empty, `busy` and `step` are cleared, INIT sets `phase`, RDIRR
and RDISR set `result` to slave byte high, master byte low; else `step` advances by one. That `cmd` and the two temporaries
keep their values after the command has ended is the model's choice (log entries 3 and 4). -/
def Obligations.RetireAdvancesOrEnds : Prop :=
  ∀ s : State,
    (s.txns ≠ [] → s.retire = { s with step := s.step + 1 }) ∧
    (s.txns = [] →
      (s.cmd = 0x0100 → s.retire = { s with phase := .ready, busy := false, step := 0 }) ∧
      (s.cmd = 0x0500 ∨ s.cmd = 0x0600 →
        s.retire = { s with result := s.readS ++ s.readM, busy := false, step := 0 }) ∧
      (s.cmd ≠ 0x0100 → s.cmd ≠ 0x0500 → s.cmd ≠ 0x0600 → s.retire = { s with busy := false, step := 0 }))

/-- Step 0 of each command (R16; that the mask is written there is decision D14): the mask is computed and stored whole
before the first write (R53), the list of transactions is built, nothing else moves but the caller's countdown: that the
submission of a caller that does not wait comes one micro-step nearer (`tick`) is the model's choice (log entry 14). The
list is held in State by log entry 17. -/
def Obligations.StepZeroComputesMask : Prop :=
  ∀ s : State, s.busy = true → s.step = 0 → Undisturbed s →
    (s.cmd = 0x0100 → step s = .next { s with
      irqMask := 0xFFFB, step := 1, stream := tick s.stream,
      txns := [.icw1M, .icw2M, .icw3M, .icw4M, .icw1S, .icw2S, .icw3S, .icw4S, .maskM 0xFB, .maskS 0xFF] }) ∧
    (∀ l : Byte, s.cmd = lineWord 0x02 l → ∃ m : Half,
      m = afterEnable l s.irqMask ∧
      step s = .next { s with
        irqMask := m, step := 1, stream := tick s.stream,
        txns := [.maskM (m.extractLsb' 0 8), .maskS (m.extractLsb' 8 8)] }) ∧
    (∀ l : Byte, s.cmd = lineWord 0x03 l → ∃ m : Half,
      m = afterDisable l s.irqMask ∧
      step s = .next { s with
        irqMask := m, step := 1, stream := tick s.stream,
        txns := [.maskM (m.extractLsb' 0 8), .maskS (m.extractLsb' 8 8)] }) ∧
    (∀ l : Byte, s.cmd = lineWord 0x04 l → step s = .next { s with
        step := 1, stream := tick s.stream, txns := if 8 ≤ lineNo l then [.eoiS, .eoiM] else [.eoiM] }) ∧
    (s.cmd = 0x0500 → step s = .next { s with
        step := 1, stream := tick s.stream,
        txns := [.selIrr, .selIrr] ++ if s.par.readOrder = .masterFirst then [.rdM, .rdS] else [.rdS, .rdM] }) ∧
    (s.cmd = 0x0600 → step s = .next { s with
        step := 1, stream := tick s.stream,
        txns := [.selIsr, .selIsr] ++ if s.par.readOrder = .masterFirst then [.rdM, .rdS] else [.rdS, .rdM] })

/-- With nothing to submit an idle block stays as it is: the run has ended (decision D21; log entry 16). -/
def Obligations.EndedRunIdles : Prop :=
  ∀ s : State, s.busy = false → s.stream = [] → step s = .next s

/-- R63 with R64, both decisions of the spec (D6 to D9, D20): the checks in their order; a refused word changes no
state, emits nothing and leaves a mark (log entry 13); an admitted one is latched. At the atomic grain (log entry 15)
the refused words are the same. -/
def Obligations.AdmissionChecksInOrder : Prop :=
  ∀ (s : State) (w : Half) (tm : Timing) (rest : List Submission),
    s.stream = ⟨w, tm⟩ :: rest → (s.busy = true → tm = .afterMicroSteps 0) →
    (∀ r, admission s w = some r →
      step s = .next { s with stream := rest, refusals := s.refusals ++ [r] }) ∧
    (admission s w = none → s.par.grain = .microStep →
      step s = .next { s with stream := rest, cmd := w, busy := true, step := 0 })

/-- A submission that does not wait lets the micro-steps it says pass, and then is refused as re-entry whatever its
word is (R121, decision D20; log entry 14). -/
def Obligations.ReentryRefusedInsideACommand : Prop :=
  ∀ (s : State) (w : Half) (rest : List Submission), s.busy = true →
    (s.stream = ⟨w, .afterMicroSteps 0⟩ :: rest →
      step s = .next { s with stream := rest, refusals := s.refusals ++ [.reentry] }) ∧
    (∀ k t, s.stream = ⟨w, .afterMicroSteps (k + 1)⟩ :: rest → step s = .next t →
      t.stream = ⟨w, .afterMicroSteps k⟩ :: rest)

/-! ## The commands -/

/-- Executed at an accepting state with the grain `microStep`, each of the six commands is latched and waits at step 0
(R16, R63; decision D4). Nothing else moves. -/
def Obligations.CommandsAcceptedAtMicroGrain : Prop :=
  ∀ s : State, s.busy = false → s.par.grain = .microStep →
    (s.phase = .uninitialized → exec .init s = .next { s with cmd := 0x0100, busy := true, step := 0 }) ∧
    (s.phase = .ready →
      (∀ l : Byte, LineOk s l →
        exec (.enable l) s = .next { s with cmd := lineWord 0x02 l, busy := true, step := 0 } ∧
        exec (.disable l) s = .next { s with cmd := lineWord 0x03 l, busy := true, step := 0 } ∧
        exec (.eoi l) s = .next { s with cmd := lineWord 0x04 l, busy := true, step := 0 }) ∧
      exec .rdirr s = .next { s with cmd := 0x0500, busy := true, step := 0 } ∧
      exec .rdisr s = .next { s with cmd := 0x0600, busy := true, step := 0 })

/-- Where a command is turned away, at either grain (R63, R121; decisions D7, D8, D9, D20): the mark is all that
changes. -/
def Obligations.CommandsTurnedAway : Prop :=
  ∀ (s : State) (i : Instr), i.isCommand = true →
    (s.busy = true → exec i s = .next { s with refusals := s.refusals ++ [.reentry] }) ∧
    (s.busy = false → i.wf = false → s.par.lineOor = .refuse →
      exec i s = .next { s with refusals := s.refusals ++ [.lineOutOfRange] }) ∧
    (s.busy = false → i.wf = true ∨ s.par.lineOor = .mod16 → i ≠ .init → s.phase = .uninitialized →
      exec i s = .next { s with refusals := s.refusals ++ [.beforeInit] }) ∧
    (s.busy = false → i = .init → s.phase = .ready →
      exec i s = .next { s with refusals := s.refusals ++ [.secondInit] })

/-- INIT as one atomic step (R80, R83, R87; decisions D1, D2, D3, D4, D14; the grain is log entry 15): the baseline
mask, `Ready`, ten writes in order, whatever the chips are; nothing else of the block moves. What `cmd` holds after the
command has ended is the model's choice (log entry 3), and `draws` is the model's own (log entry 24). -/
def Obligations.InitAtomicEffect : Prop :=
  ∀ s : State, s.busy = false → s.phase = .uninitialized → s.par.grain = .atomic →
    ∃ t, exec .init s = .next t ∧ Completed s t 0x0100 10 ∧ NoRead s t ∧
      t.irqMask = 0xFFFB ∧ t.phase = .ready ∧ t.result = s.result ∧
      t.trace = s.trace ++ initEvents s.par.icwPorts

/-- ENABLE n as one atomic step (R90, R92, R93): bit n cleared, for n of 8 or more the cascade bit too, both bytes of
the new mask written, master first; nothing else of the block moves. A line of 16 or more: `LineTakenModuloSixteen`
and `CommandsTurnedAway`. The grain is log entry 15; what `cmd` holds after the command has ended is the model's choice
(log entry 3), and `draws` is the model's own (log entry 24). -/
def Obligations.EnableAtomicEffect : Prop :=
  ∀ (s : State) (l : Byte), ReadyAtomic s → l.toNat < 16 →
    ∃ t, exec (.enable l) s = .next t ∧ Completed s t (lineWord 0x02 l) 2 ∧ NoRead s t ∧
      t.phase = s.phase ∧ t.result = s.result ∧
      t.irqMask = afterEnable l s.irqMask ∧
      t.trace = s.trace ++
        [.w 0x0021 (t.irqMask.extractLsb' 0 8), .w 0x00A1 (t.irqMask.extractLsb' 8 8)]

/-- DISABLE n as one atomic step (R91, R92, R93): bit n set and, if every slave-side bit is then set, the cascade bit
too, whatever n is; both bytes written, master first; nothing else of the block moves. A line of 16 or more:
`LineTakenModuloSixteen` and `CommandsTurnedAway`. The grain is log entry 15; what `cmd` holds after the command has ended
is the model's choice (log entry 3), and `draws` is the model's own (log entry 24). -/
def Obligations.DisableAtomicEffect : Prop :=
  ∀ (s : State) (l : Byte), ReadyAtomic s → l.toNat < 16 →
    ∃ t, exec (.disable l) s = .next t ∧ Completed s t (lineWord 0x03 l) 2 ∧ NoRead s t ∧
      t.phase = s.phase ∧ t.result = s.result ∧
      t.irqMask = afterDisable l s.irqMask ∧
      t.trace = s.trace ++
        [.w 0x0021 (t.irqMask.extractLsb' 0 8), .w 0x00A1 (t.irqMask.extractLsb' 8 8)]

/-- EOI n as one atomic step (R105, R106): the slave's command port first and then the master's for n of 8 or more, the
master's alone below 8; no register of the block moves. A line of 16 or more: `LineTakenModuloSixteen` and
`CommandsTurnedAway`. The grain is log entry 15; what `cmd` holds after the command has ended is the model's choice (log
entry 3), and `draws` is the model's own (log entry 24). -/
def Obligations.EoiAtomicEffect : Prop :=
  ∀ (s : State) (l : Byte), ReadyAtomic s → l.toNat < 16 →
    ∃ t, exec (.eoi l) s = .next t ∧
      Completed s t (lineWord 0x04 l) (if 8 ≤ lineNo l then 2 else 1) ∧ NoRead s t ∧
      t.irqMask = s.irqMask ∧ t.phase = s.phase ∧ t.result = s.result ∧
      t.trace = s.trace ++
        if 8 ≤ lineNo l then [.w 0x00A0 0x20, .w 0x0020 0x20] else [.w 0x0020 0x20]

/-- RDIRR and RDISR as one atomic step (R110, R111, R112, R113, R115): the selector to the master's command port twice,
one read of each command port in `READ_ORDER`, `result` the slave's byte above the master's, whatever the order. The
bytes are the canned responses in the order of issue, else draws (log entry 7). The grain is log entry 15; that `cmd` and
the two temporaries keep their values after the command has ended is the model's choice (log entries 3 and 4), and `draws`
is the model's own (log entry 24). One canned response left, or a responder: `PortReadRowsComplete` and
`ResponderAnswersSelectedRegister`. -/
def Obligations.ReadRegAtomicEffect : Prop :=
  ∀ (s : State) (i : Instr), ReadyAtomic s → (i = .rdirr ∨ i = .rdisr) →
    ∃ t mb sb, exec i s = .next t ∧
      Completed s t (if i = .rdirr then 0x0500 else 0x0600) 4 ∧
      t.irqMask = s.irqMask ∧ t.phase = s.phase ∧ t.result = sb ++ mb ∧ t.readM = mb ∧ t.readS = sb ∧
      t.answers = s.answers.drop 2 ∧
      t.trace = s.trace ++
        [.w 0x0020 (if i = .rdirr then 0x0A else 0x0B), .w 0x0020 (if i = .rdirr then 0x0A else 0x0B)] ++
        (if s.par.readOrder = .masterFirst then [.r 0x0020 mb, .r 0x00A0 sb] else [.r 0x00A0 sb, .r 0x0020 mb]) ∧
      (∀ a b rest, s.answers = a :: b :: rest →
        if s.par.readOrder = .masterFirst then mb = a ∧ sb = b else mb = b ∧ sb = a) ∧
      (s.answers = [] → s.par.responder = false →
        if s.par.readOrder = .masterFirst then mb = Config.draw8 (s.draws + 2) ∧ sb = Config.draw8 (s.draws + 3)
        else mb = Config.draw8 (s.draws + 3) ∧ sb = Config.draw8 (s.draws + 2))

/-- R64 under `LINE_OOR = mod16` (decision D7): the operand is taken modulo 16 and the command executed as if `LZ` were
0, so that all of its effect is that of the line in range. The latched word alone is another, and that `cmd` keeps it
after the command has ended is the model's choice (log entry 3). Both commands take the same free values, for both start
with the same `draws` (log entry 24). -/
def Obligations.LineTakenModuloSixteen : Prop :=
  ∀ (s : State) (l k : Byte), ReadyAtomic s → s.par.lineOor = .mod16 → l.toNat % 16 = k.toNat →
    ∃ t1 t2 t3,
      exec (.enable l) s = .next { t1 with cmd := lineWord 0x02 l } ∧ exec (.enable k) s = .next t1 ∧
      exec (.disable l) s = .next { t2 with cmd := lineWord 0x03 l } ∧ exec (.disable k) s = .next t2 ∧
      exec (.eoi l) s = .next { t3 with cmd := lineWord 0x04 l } ∧ exec (.eoi k) s = .next t3

/-- A command run one micro-step a step is the command run as one atomic step (R16, decision D4; log entry 15): from
idle, with the word next in the stream and a caller that waits, admission, step 0 and one step a transaction end in the
atomic step's state. Both runs take the same free values, for both start with the same `draws` (log entry 24). -/
def Obligations.MicroStepsRefineAtomic : Prop :=
  ∀ (s : State) (i : Instr), i.isCommand = true → s.busy = false → s.turnedAway i = none →
    s.par.grain = .microStep → Patient s.stream →
    ∃ t, runSteps (transactionCount i + 2)
        { s with stream := ⟨encodeCmd i, .whenIdle⟩ :: s.stream } = some t ∧
      exec i (atGrain .atomic s) = .next (atGrain .atomic t)

/-! ## The mask -/

/-- R94, derived by the spec from R90 and R91: which half of the cascade-line invariant each operation keeps,
establishes or breaks. The grain is log entry 15. -/
def Obligations.CascadeInvariantTable : Prop :=
  invA State.reset.irqMask ∧ invB State.reset.irqMask ∧
  (∀ s : State, s.busy = false → s.phase = .uninitialized → s.par.grain = .atomic →
    ∃ t, exec .init s = .next t ∧ invA t.irqMask ∧ ¬ invB t.irqMask) ∧
  ∀ (s : State) (l : Byte), ReadyAtomic s → LineOk s l →
    (∃ t, exec (.enable l) s = .next t ∧
      (8 ≤ lineNo l → invA t.irqMask ∧ invB t.irqMask) ∧
      (lineNo l < 8 → lineNo l ≠ 2 →
        (invA s.irqMask → invA t.irqMask) ∧ (invB s.irqMask → invB t.irqMask)) ∧
      (lineNo l = 2 → invA t.irqMask ∧ (s.irqMask.extractLsb' 8 8 = 0xFF → ¬ invB t.irqMask))) ∧
    (∃ t, exec (.disable l) s = .next t ∧ invB t.irqMask ∧
      (lineNo l ≠ 2 → invA s.irqMask → invA t.irqMask) ∧
      (lineNo l = 2 → s.irqMask.extractLsb' 8 8 ≠ 0xFF → ¬ invA t.irqMask)) ∧
    (∀ i, i = .eoi l ∨ i = .rdirr ∨ i = .rdisr → ∃ t, exec i s = .next t ∧ t.irqMask = s.irqMask)

/-- R96, derived by the spec from R90 and R91: ENABLE n then DISABLE n leaves bit n set, and restores the whole mask if
bit n was set and both halves of the invariant held. Four writes: the pair of the mask ENABLE leaves, then the pair of
the mask DISABLE leaves (R92, R93). The grain is log entry 15. -/
def Obligations.EnableThenDisable : Prop :=
  ∀ (s : State) (l : Byte), ReadyAtomic s → LineOk s l →
    ∃ t, execAll [.enable l, .disable l] s = some t ∧ t.irqMask.getLsbD (lineNo l) = true ∧
      t.trace = s.trace ++
        [.w 0x0021 ((afterEnable l s.irqMask).extractLsb' 0 8), .w 0x00A1 ((afterEnable l s.irqMask).extractLsb' 8 8),
         .w 0x0021 (t.irqMask.extractLsb' 0 8), .w 0x00A1 (t.irqMask.extractLsb' 8 8)] ∧
      (s.irqMask.getLsbD (lineNo l) = true → invA s.irqMask → invB s.irqMask → t.irqMask = s.irqMask)

/-- P3 as the rules give it (R97, R91): after DISABLE of every slave-side line, in any order and among any other
DISABLEs that follow or precede, every slave-side bit and the cascade bit are set. The grain is log entry 15. -/
def Obligations.DisablingEverySlaveLineMasksCascade : Prop :=
  ∀ (s : State) (ls : List Byte), ReadyAtomic s → (∀ l ∈ ls, LineOk s l) →
    (∀ n, 8 ≤ n → n < 16 → ∃ l ∈ ls, lineNo l = n) →
    ∃ t, execAll (ls.map .disable) s = some t ∧ t.irqMask.extractLsb' 8 8 = 0xFF ∧
      t.irqMask.getLsbD 2 = true

/-- R98, derived by the spec from R90 and R91: two mask operations on different lines, neither line 2, give the same
bits outside bit 2 in either order. The grain is log entry 15. -/
def Obligations.MaskOpsCommuteOutsideCascade : Prop :=
  ∀ (s : State) (l k : Byte) (i j : Instr), ReadyAtomic s → LineOk s l → LineOk s k →
    lineNo l ≠ lineNo k → lineNo l ≠ 2 → lineNo k ≠ 2 →
    (i = .enable l ∨ i = .disable l) → (j = .enable k ∨ j = .disable k) →
    ∃ t u, execAll [i, j] s = some t ∧ execAll [j, i] s = some u ∧
      ∀ b, b ≠ 2 → t.irqMask.getLsbD b = u.irqMask.getLsbD b

/-- R93 at the atomic grain (R16, decision D4; log entry 15): no write is ever suppressed, whatever the mask was, and equal
masks give equal write pairs. The order is R46's and R92's (decision D3). An ENABLE or
DISABLE adds the low byte of its new mask to the master's data port and the high byte to the slave's, and two of them,
of any lines and from any states, that end in the same mask add the same pair. -/
def Obligations.WritePairIsAFunctionOfTheMask : Prop :=
  ∀ (s u : State) (l k : Byte) (i j : Instr), ReadyAtomic s → ReadyAtomic u → LineOk s l → LineOk u k →
    (i = .enable l ∨ i = .disable l) → (j = .enable k ∨ j = .disable k) →
    ∃ t v d e, exec i s = .next t ∧ exec j u = .next v ∧ t.trace = s.trace ++ d ∧ v.trace = u.trace ++ e ∧
      d = [.w 0x0021 (t.irqMask.extractLsb' 0 8), .w 0x00A1 (t.irqMask.extractLsb' 8 8)] ∧
      e = [.w 0x0021 (v.irqMask.extractLsb' 0 8), .w 0x00A1 (v.irqMask.extractLsb' 8 8)] ∧
      (t.irqMask = v.irqMask → d = e)

/-- R12: `irq_mask` is written by INIT, ENABLE and DISABLE only. A step that changes it is step 0 of one of them (decision
D14), or the whole of one of them at the atomic grain (R16, log entry 15). -/
def Obligations.MaskWrittenByThreeOperations : Prop :=
  ∀ s t : State, step s = .next t → t.irqMask ≠ s.irqMask →
    ∃ i, (i = .init ∨ (∃ l, i = .enable l) ∨ (∃ l, i = .disable l)) ∧
      ((s.busy = true ∧ s.step = 0 ∧ readCmd s.cmd = .ok i) ∨
        (s.busy = false ∧ s.par.grain = .atomic ∧ ∃ a rest, s.stream = a :: rest ∧ readCmd a.word = .ok i))

/-- R15, R115: `result` keeps its value until an RDIRR or RDISR completes. -/
def Obligations.ResultWrittenByReadsOnly : Prop :=
  ∀ s t : State, step s = .next t → t.result ≠ s.result →
    ∃ i, (i = .rdirr ∨ i = .rdisr) ∧
      ((s.busy = true ∧ s.step ≠ 0 ∧ s.txns.length = 1 ∧ readCmd s.cmd = .ok i) ∨
        (s.busy = false ∧ s.par.grain = .atomic ∧ ∃ a rest, s.stream = a :: rest ∧ readCmd a.word = .ok i))

/-- R14: `phase` is written by INIT only, as its last effect (R80, R85), and only to `Ready`. A step that changes it is the
last transaction of INIT, or the whole of INIT at the atomic grain (log entry 15). -/
def Obligations.PhaseWrittenByInitOnly : Prop :=
  ∀ s t : State, step s = .next t → t.phase ≠ s.phase →
    t.phase = .ready ∧ t.busy = false ∧
      ((s.busy = true ∧ s.step ≠ 0 ∧ s.txns.length = 1 ∧ readCmd s.cmd = .ok .init) ∨
        (s.busy = false ∧ s.par.grain = .atomic ∧ ∃ a rest, s.stream = a :: rest ∧ readCmd a.word = .ok .init))

/-! ## The port-transaction rows -/

/-- R42: a port write is recorded as `W(p, v)`; it returns nothing and reports nothing, so that no register of the block
moves; it cannot fail. -/
def Obligations.PortWriteRecorded : Prop :=
  ∀ (p : Port) (v : Byte) (s : State),
    (s.portWrite p v).trace = s.trace ++ [.w p v] ∧ SameBlock s (s.portWrite p v) ∧ NoRead s (s.portWrite p v)

/-- R43: a port read always returns a byte, from every port and in every state, and is recorded as `R(p) = v`. That the
byte of a command port is READREG's `mb` or `sb` is R112's, and that it lands in the temporary after any read, and stays
there, is the model's choice (log entry 4). -/
def Obligations.PortReadRecorded : Prop :=
  ∀ (p : Port) (s : State), ∃ v : Byte,
    (s.portRead p).trace = s.trace ++ [.r p v] ∧ SameBlock s (s.portRead p) ∧
      (p = 0x0020 → (s.portRead p).readM = v) ∧ (p = 0x00A0 → (s.portRead p).readS = v)

/-- Each port-write row is one write of its port and byte (R42, R66, R67; the ports of ICW2 to ICW4 by R82, decision
D1), which always succeeds; the block's registers do not move. `draws` is the model's own counter (log entry 24). -/
def Obligations.PortWriteRowsComplete : Prop :=
  ∀ (s : State) (i : Instr) (p : Port) (v : Byte), rowWriteOn s.par.icwPorts i = some (p, v) →
    ∃ t, exec i s = .next t ∧ SameBlock s t ∧ NoRead s t ∧ t.trace = s.trace ++ [.w p v] ∧
      t.draws = s.draws + 1

/-- Each port-read row is one read of its port (R43, R49), which always answers: the next canned response, and with
none left and no responder a draw (log entry 7). The byte goes to READREG's temporary for that port (R112; that it lands
there after a row run anywhere, and stays, is the model's choice, log entry 4); no other register of the block moves.
`draws` is the model's own counter (log entry 24). -/
def Obligations.PortReadRowsComplete : Prop :=
  ∀ (s : State) (i : Instr), (i = .rdM ∨ i = .rdS) →
    ∃ t v, exec i s = .next t ∧ SameBlock s t ∧ t.draws = s.draws + 1 ∧
      t.answers = s.answers.tail ∧
      t.trace = s.trace ++ [.r (if i = .rdM then 0x0020 else 0x00A0) v] ∧
      t.readM = (if i = .rdM then v else s.readM) ∧ t.readS = (if i = .rdS then v else s.readS) ∧
      (∀ a rest, s.answers = a :: rest → v = a) ∧
      (s.answers = [] → s.par.responder = false → v = Config.draw8 s.draws)

/-- With a responder adopted (R49, decision D12; log entry 18), chips present and no canned response left, a read of a
command port answers the register the chip has selected (R21), as the environment has left it, and a draw where none is
selected (log entry 7). That the byte is in READREG's temporary after a row run anywhere is the model's choice (log entry
4). -/
def Obligations.ResponderAnswersSelectedRegister : Prop :=
  ∀ s : State, s.par.responder = true → s.par.chipsPresent = true → s.answers = [] →
    (∃ t, exec .rdM s = .next t ∧ t.readM =
      match s.master.rsel with
      | .irr => s.environment.master.irr
      | .isr => s.environment.master.isr
      | .none => Config.draw8 s.draws) ∧
    (∃ t, exec .rdS s = .next t ∧ t.readS =
      match s.slave.rsel with
      | .irr => s.environment.slave.irr
      | .isr => s.environment.slave.isr
      | .none => Config.draw8 s.draws)

/-- Which chip a port-write row reaches: a row that writes one of the master's ports leaves the slave as the
environment left it, and the reverse; with chips absent neither moves (R41, R50). -/
def Obligations.PortWriteReachesOneChip : Prop :=
  ∀ (s : State) (i : Instr) (p : Port) (v : Byte), rowWriteOn s.par.icwPorts i = some (p, v) →
    ∃ t, exec i s = .next t ∧
      (p = 0x0020 ∨ p = 0x0021 → t.slave = s.environment.slave) ∧
      (p = 0x00A0 ∨ p = 0x00A1 → t.master = s.environment.master) ∧
      (s.par.chipsPresent = false → t.master = s.master ∧ t.slave = s.slave)

/-! ## The chips -/

/-- R19: outside an initialisation sequence a byte written to a chip's data port replaces that chip's mask register. That
it does nothing else to the chip is the model's choice, for R48 says nothing of any other effect (log entry 27). -/
def Obligations.MaskRowReplacesMaskRegister : Prop :=
  ∀ (s : State) (v : Byte), s.par.chipsPresent = true →
    (s.master.icwStep = 0 → ∃ t, exec (.maskM v) s = .next t ∧
      t.master = { s.environment.master with imr := v } ∧ t.slave = s.environment.slave) ∧
    (s.slave.icwStep = 0 → ∃ t, exec (.maskS v) s = .next t ∧
      t.slave = { s.environment.slave with imr := v } ∧ t.master = s.environment.master)

/-- R20, R48: an ICW1 row begins that chip's initialisation sequence: three more bytes are expected, whatever the chip
held. That it does so inside a sequence too is log entry 9. -/
def Obligations.Icw1RowBeginsSequence : Prop :=
  ∀ s : State, s.par.chipsPresent = true →
    (∃ t, exec .icw1M s = .next t ∧ t.master.icwStep = 3 ∧ t.slave = s.environment.slave) ∧
    (∃ t, exec .icw1S s = .next t ∧ t.slave.icwStep = 3 ∧ t.master = s.environment.master)

/-- R20, R23, R67: while a chip expects more ICW bytes, a byte written to its data port, the port it takes ICW2 to ICW4 on
(R82, decision D1; log entry 10), is the next ICW, whatever the byte and whichever row it stands for: vector base, then
cascade configuration, then mode; the mask register stays, for the byte is no mask. That the selector, the IRR and the ISR
stay too is the model's choice, for what INIT does to them is open (U4; log entry 30). With `ICW_PORTS = all_command` ICW2 to ICW4 come out of
sequence, and the chip's state is any value (U7, log entry 10). -/
def Obligations.ByteInSequenceIsIcw : Prop :=
  ∀ (s : State) (i : Instr) (p : Port) (v : Byte), s.par.chipsPresent = true → s.par.icwPorts = .split →
    rowWriteOn s.par.icwPorts i = some (p, v) →
    ∃ t, exec i s = .next t ∧
      (p = 0x0021 →
        (s.master.icwStep = 3 → t.master = { s.environment.master with vbase := v, icwStep := 2 }) ∧
        (s.master.icwStep = 2 → t.master = { s.environment.master with cascade := v, icwStep := 1 }) ∧
        (s.master.icwStep = 1 → t.master = { s.environment.master with mode := v, icwStep := 0 })) ∧
      (p = 0x00A1 →
        (s.slave.icwStep = 3 → t.slave = { s.environment.slave with vbase := v, icwStep := 2 }) ∧
        (s.slave.icwStep = 2 → t.slave = { s.environment.slave with cascade := v, icwStep := 1 }) ∧
        (s.slave.icwStep = 1 → t.slave = { s.environment.slave with mode := v, icwStep := 0 }))

/-- The environment's move before a transaction touches the IRR and the ISR of the two chips (R22) and the model's own
record of the interrupts taken, and nothing else of the whole state (the move is log entry 8, the record log entry 28). -/
def Obligations.EnvironmentMovesRequestsOnly : Prop :=
  ∀ s : State, ∃ a b c d m n, s.environment = { s with
    master := { s.master with irr := a, isr := b, owed := m }
    slave := { s.slave with irr := c, isr := d, owed := n } }

/-- R20, R23, R88: from whatever a chip held (R34), ICW1 begins its sequence of three more bytes, and the next three
rows latch vector base, cascade configuration and mode and end the sequence, on the data port (decision D1; with
`ICW_PORTS = all_command` the chips' state is any value, U7 and log entry 10). That ICW1 begins a sequence from every state
is log entry 9; the grain is log entry 15. -/
def Obligations.InitConfiguresBothChips : Prop :=
  ∀ s : State, s.busy = false → s.phase = .uninitialized → s.par.grain = .atomic →
    s.par.chipsPresent = true → s.par.icwPorts = .split →
    ∃ t, exec .init s = .next t ∧
      t.master.imr = 0xFB ∧ t.master.icwStep = 0 ∧ t.master.vbase = 0x20 ∧ t.master.cascade = 0x04 ∧
      t.master.mode = 0x01 ∧
      t.slave.imr = 0xFF ∧ t.slave.icwStep = 0 ∧ t.slave.vbase = 0x28 ∧ t.slave.cascade = 0x02 ∧
      t.slave.mode = 0x01

/-- R24, after ENABLE and DISABLE: the hardware mask registers hold the two bytes of the new mask, whatever they held;
the configuration stays (R23). That the selectors stay too is the model's choice, for R48 says nothing of any other effect
of a mask byte (log entry 27); the grain is log entry 15. -/
def Obligations.MaskOpsRestoreMirror : Prop :=
  ∀ (s : State) (l : Byte) (i : Instr), ReadyAtomic s → LineOk s l → ChipsUp s →
    (i = .enable l ∨ i = .disable l) →
    ∃ t, exec i s = .next t ∧ t.Mirrors ∧
      t.master.rsel = s.master.rsel ∧ t.master.vbase = s.master.vbase ∧
      t.master.cascade = s.master.cascade ∧ t.master.mode = s.master.mode ∧
      t.slave.rsel = s.slave.rsel ∧ t.slave.vbase = s.slave.vbase ∧
      t.slave.cascade = s.slave.cascade ∧ t.slave.mode = s.slave.mode

/-- R21: a selector row sets the master's selector state; no row sends a selector to the slave's command port
(R114). The configuration stays by R23 and what is in service by R126; that the mask register, the sequence position and
the IRR stay too, as the environment has left them (log entry 8), is the model's choice (log entry 32), and so is the
record `owed` (log entry 28). -/
def Obligations.SelectorRowsSelect : Prop :=
  (∀ s : State, s.par.chipsPresent = true → s.master.icwStep = 0 →
    (∃ t, exec .selIrr s = .next t ∧ t.master = { s.environment.master with rsel := .irr } ∧
      t.slave = s.environment.slave) ∧
    (∃ t, exec .selIsr s = .next t ∧ t.master = { s.environment.master with rsel := .isr } ∧
      t.slave = s.environment.slave)) ∧
  (∀ (ports : IcwPorts) (i : Instr) (v : Byte), portOp ports i = some (.write 0x00A0 v) → v ≠ 0x0A ∧ v ≠ 0x0B)

/-- R108: an end-of-interrupt byte for an interrupt that was taken (R148) ends one service at the chip it is written to,
which one is free (log entry 11); while a slave-side line is in service the master keeps line 2 (R125) if anything else
is in service there, and with nothing else it is line 2 that ends (log entry 11). The mask register and the configuration stay (R107). Other
end-of-interrupt bytes are the cases of U9, in which the chip's ISR is any value. -/
def Obligations.EoiRowClearsOneServiceBit : Prop :=
  ∀ s : State, s.par.chipsPresent = true → s.phase = .ready →
    (s.master.icwStep = 0 → Awaited s s.master.owed → s.master.isr ≠ 0 →
      ∃ t, exec .eoiM s = .next t ∧ t.slave = s.environment.slave ∧ ConfigKept s.master t.master ∧
        OneServiceEnded s.environment.master.isr t.master.isr ∧
        (s.environment.slave.isr ≠ 0 → (∃ b, b ≠ 2 ∧ s.environment.master.isr.getLsbD b = true) →
          t.master.isr.getLsbD 2 = s.environment.master.isr.getLsbD 2) ∧
        OwesOneLess s s.environment.master.owed t.master.owed) ∧
    (s.slave.icwStep = 0 → Awaited s s.slave.owed → s.slave.isr ≠ 0 →
      ∃ t, exec .eoiS s = .next t ∧ t.master = s.environment.master ∧ ConfigKept s.slave t.slave ∧
        OneServiceEnded s.environment.slave.isr t.slave.isr ∧
        OwesOneLess s s.environment.slave.owed t.slave.owed)

/-- What a port-read row leaves of the chips: at most the selector of the chip behind the port moves (U5, log entry 12),
and the environment's own move; the other chip is as the environment left it (R41, R49). -/
def Obligations.PortReadRowsTouchSelectorOnly : Prop :=
  ∀ s : State,
    (∃ t r, exec .rdM s = .next t ∧ t.master = { s.environment.master with rsel := r } ∧
      t.slave = s.environment.slave) ∧
    (∃ t r, exec .rdS s = .next t ∧ t.slave = { s.environment.slave with rsel := r } ∧
      t.master = s.environment.master)

/-- R107, and R110 to R112 of the reads: EOI, RDIRR and RDISR change no mask register and no configuration of either
chip, and leave both outside any initialisation sequence; a mirror that was whole stays whole (R24). That the
selectors and the reads leave the mask registers and the sequence positions is the model's choice (log entries 12 and 32);
the grain is log entry 15. -/
def Obligations.EoiAndReadsKeepMasksAndConfiguration : Prop :=
  ∀ (s : State) (l : Byte) (i : Instr), ReadyAtomic s → LineOk s l → ChipsUp s →
    (i = .eoi l ∨ i = .rdirr ∨ i = .rdisr) →
    ∃ t, exec i s = .next t ∧ (s.Mirrors → t.Mirrors) ∧
      t.master.imr = s.master.imr ∧ t.master.icwStep = 0 ∧ t.master.vbase = s.master.vbase ∧
      t.master.cascade = s.master.cascade ∧ t.master.mode = s.master.mode ∧
      t.slave.imr = s.slave.imr ∧ t.slave.icwStep = 0 ∧ t.slave.vbase = s.slave.vbase ∧
      t.slave.cascade = s.slave.cascade ∧ t.slave.mode = s.slave.mode

/-- R123, R125, R126, R128, R148, as the model reads them (log entries 8, 28 and 29): once PICSEQ is Ready, a transaction
other than an end-of-interrupt byte and an ICW (one that goes to a command port, log entry 10) ends nothing that is in
service. A line it finds newly in service is enabled, is above every line in service at its chip in the chip's order of
priority, had no EOI outstanding, and now waits for one; a slave-side one has the cascade open and comes through line 2,
which was not in service at the master and now is, so there is one at most; line 2 comes into service for a slave-side
line only. While a slave-side line is in service, so is line 2 at the master, if it was so before. -/
def Obligations.ServiceBeginsEnabledEndsByEoi : Prop :=
  ∀ (s t : State) (i : Instr), ChipsUp s → s.phase = .ready → i.isCommand = false →
    i ≠ .eoiM → i ≠ .eoiS → i ≠ .icw1M → i ≠ .icw1S →
    (s.par.icwPorts = .split ∨ i.atIcwPosition = false) → exec i s = .next t →
    SubBits s.master.isr t.master.isr ∧ SubBits s.slave.isr t.slave.isr ∧
    (∀ b, b ≠ 2 → t.master.isr.getLsbD b = true → s.master.isr.getLsbD b = false →
      s.master.imr.getLsbD b = false ∧ (∀ j, s.master.isr.getLsbD j = true → above .master b j = true) ∧
      s.master.owed.getLsbD b = false ∧ t.master.owed.getLsbD b = true) ∧
    (t.master.isr.getLsbD 2 = true → s.master.isr.getLsbD 2 = false →
      ∃ b, t.slave.isr.getLsbD b = true ∧ s.slave.isr.getLsbD b = false) ∧
    (∀ b, t.slave.isr.getLsbD b = true → s.slave.isr.getLsbD b = false →
      s.slave.imr.getLsbD b = false ∧ s.master.imr.getLsbD 2 = false ∧
      s.master.isr.getLsbD 2 = false ∧ t.master.isr.getLsbD 2 = true ∧
      (∀ j, s.slave.isr.getLsbD j = true → above .slave b j = true) ∧
      (∀ j, s.master.isr.getLsbD j = true → above .master 2 j = true) ∧
      s.master.owed.extractLsb' 8 8 = 0 ∧ t.master.owed.getLsbD (8 + b) = true ∧
      s.slave.owed.getLsbD (8 + b) = false ∧ t.slave.owed.getLsbD (8 + b) = true ∧
      ∀ c, t.slave.isr.getLsbD c = true → s.slave.isr.getLsbD c = false → c = b) ∧
    ((s.slave.isr ≠ 0 → s.master.isr.getLsbD 2 = true) → t.slave.isr ≠ 0 → t.master.isr.getLsbD 2 = true)

/-- The window between the two mask writes (R146, derived by the spec): the row of the first write, from any two mask
registers; and the micro-step that runs it within an ENABLE or DISABLE, where `irq_mask` is the new mask already (decision
D14) and the mask registers still hold the old one. -/
def Obligations.FlushWindowLetsNothingThrough : Prop :=
  (∀ (s : State) (new : Half), s.par.chipsPresent = true → s.master.icwStep = 0 →
    ∃ t, exec (.maskM (new.extractLsb' 0 8)) s = .next t ∧ Window (chipMask s) new t) ∧
  (∀ (s : State) (l : Byte) (i : Instr), (i = .enable l ∨ i = .disable l) → s.par.chipsPresent = true →
    s.busy = true → s.Within i → s.step = 1 → s.FlushProgress 1 → Undisturbed s →
    ∃ t, step s = .next t ∧ t.irqMask = s.irqMask ∧ t.step = 2 ∧ Window (chipMask s) s.irqMask t)

/-! ## Invariants and whole-machine rules -/

/-- The sequencer's invariant holds at reset (R32). -/
def Obligations.SequencedAtReset : Prop := ∀ p : Params, (State.resetWith p).Sequenced

/-- Every step keeps the sequencer's invariant (R16): idle with `step = 0`, or within a command, with the rest of that
command's list, INIT exactly while Uninitialized. -/
def Obligations.SequencedKept : Prop := ∀ s t : State, s.Sequenced → step s = .next t → t.Sequenced

/-- `step` "never exceeds 10" (R16). -/
def Obligations.SequencedStepAtMostTen : Prop := ∀ s : State, s.Sequenced → s.step ≤ 10

/-- A sequenced state never stops: no fault and no refusal (R120, R154: an accepted command finishes its micro-steps). -/
def Obligations.SequencedNeverStops : Prop := ∀ s : State, s.Sequenced → ∃ t, step s = .next t

/-- Mirror coherence, micro-step by micro-step, holds at reset. -/
def Obligations.CoherentAtReset : Prop := ∀ p : Params, (State.resetWith p).Coherent

/-- Every step keeps mirror coherence (R24, R88; inside ENABLE and DISABLE as R146 describes the window), with
ICW2 to ICW4 on the data ports (decision D1). It rests on the chips as the model has them (log entries 8 to 12, 27 and
32). -/
def Obligations.CoherentKept : Prop := ∀ s t : State, s.Coherent → step s = .next t → t.Coherent

/-- Every step puts only the words of the sixteen rows on the port bus (R41, R65 to R67). -/
def Obligations.LegalTraceKept : Prop := ∀ s t : State, s.LegalTrace → step s = .next t → t.LegalTrace

/-- A legal trace touches the four ports only, and reads the two command ports only (R41). -/
def Obligations.LegalTraceFourPorts : Prop :=
  ∀ s : State, s.LegalTrace → ∀ e ∈ s.trace,
    (∀ p v, e = .w p v → p = 0x0020 ∨ p = 0x0021 ∨ p = 0x00A0 ∨ p = 0x00A1) ∧
    (∀ p v, e = .r p v → p = 0x0020 ∨ p = 0x00A0)

/-- What no step undoes: `Ready` (R14: "the controller never re-enters {Uninitialized}"), the trace (R51, R57: one
total order, only ever extended), the marks (R63, "a refusal mark kept for the run", spec/00_scope.md section 6; log
entry 13), the parameters (log entry 1). -/
def Obligations.ReadyTraceAndMarksPersist : Prop :=
  ∀ s t : State, step s = .next t →
    (s.phase = .ready → t.phase = .ready) ∧ t.par = s.par ∧
    (∃ l, t.trace = s.trace ++ l) ∧ (∃ l, t.refusals = s.refusals ++ l)

/-- At the micro-step grain a step emits at most one port transaction, and none before a command's step 0 has run (R16,
R51). -/
def Obligations.OneTransactionAMicroStep : Prop :=
  ∀ s t : State, step s = .next t → s.par.grain = .microStep →
    (t.trace = s.trace ∨ ∃ e, t.trace = s.trace ++ [e]) ∧ (s.busy = false ∨ s.step = 0 → t.trace = s.trace)

/-- R50, R84: PICSEQ's own state moves the same whatever the chips hold and whether they exist, as long as no responder
is adopted and for the same bytes read: a step of two states in which PICSEQ is the same leaves PICSEQ the same. What a
read returns is any value, with chips and without (R49, R50); that the two states read the same bytes is the model's
doing: they share the canned responses and the counter of the draws, and a draw does not look at the chips (log entries 7
and 24). -/
def Obligations.PicseqIndependentOfChips : Prop :=
  ∀ s t s' : State, s.SamePicseq t → s.par.responder = false → step s = .next s' →
    ∃ t', step t = .next t' ∧ s'.SamePicseq t'

/-- `exec` always answers a next state: nothing in this hardware stops (R120). -/
def Obligations.ExecNeverStops : Prop := ∀ (i : Instr) (s : State), ∃ t, exec i s = .next t
end

