-- ==== Sys2Proof/Laws/Decode.lean ====
section
/-!
SUPPORT. The fields of words: a word built from fields has those fields, and a word is built from its fields
(spec/30_encoding.md R60, R65; spec/20_memory.md R45). What `readCmd` makes of a word of given fields (R63).
-/
namespace Sys2Proof

/-- The low field of a concatenation. -/
theorem extract_append_low {n m : Nat} (a : BitVec n) (b : BitVec m) : (a ++ b).extractLsb' 0 m = b := by
  apply BitVec.eq_of_getLsbD_eq
  intro k hk
  rw [BitVec.getLsbD_extractLsb', BitVec.getLsbD_append]
  simp [hk]

/-- The high field of a concatenation. -/
theorem extract_append_high {n m : Nat} (a : BitVec n) (b : BitVec m) : (a ++ b).extractLsb' m n = a := by
  apply BitVec.eq_of_getLsbD_eq
  intro k hk
  rw [BitVec.getLsbD_extractLsb', BitVec.getLsbD_append]
  simp [hk]

/-- A value is the concatenation of its two fields. -/
theorem append_extract {n m : Nat} (w : BitVec (n + m)) : w.extractLsb' m n ++ w.extractLsb' 0 m = w := by
  apply BitVec.eq_of_getLsbD_eq
  intro k hk
  rw [BitVec.getLsbD_append, BitVec.getLsbD_extractLsb', BitVec.getLsbD_extractLsb']
  by_cases h : k < m
  · simp [h]
  · have h1 : k - m < n := by omega
    simp [h, h1, show m + (k - m) = k by omega]

@[simp] theorem opField_cmdWord (op l : Byte) : opField (cmdWord op l) = op := extract_append_high op l

@[simp] theorem lineField_cmdWord (op l : Byte) : lineField (cmdWord op l) = l := extract_append_low op l

@[simp] theorem cmdWord_fields (w : Half) : cmdWord (opField w) (lineField w) = w := append_extract (n := 8) (m := 8) w

theorem opField_toNat (w : Half) : (opField w).toNat = w.toNat / 256 := by
  have h := w.isLt
  simp [opField, BitVec.extractLsb'_toNat, Nat.shiftRight_eq_div_pow]
  omega

theorem lineField_toNat (w : Half) : (lineField w).toNat = w.toNat % 256 := by
  simp [lineField, BitVec.extractLsb'_toNat]

theorem lineField_eq_zero (w : Half) : lineField w = 0 ↔ w.toNat % 256 = 0 := by
  rw [← lineField_toNat]
  exact ⟨fun h => by simp [h], fun h => BitVec.eq_of_toNat_eq (by simpa using h)⟩

/-- A written word's port and byte (R65). -/
theorem portw_fields (p : Port) (v : Byte) :
    ((p ++ v : BitVec 24).extractLsb' 8 16 = p) ∧ ((p ++ v : BitVec 24).extractLsb' 0 8 = v) :=
  ⟨extract_append_high p v, extract_append_low p v⟩

/-- A 24-bit word is built from its port and byte (R65). -/
theorem portw_of_fields (w : BitVec 24) : (w.extractLsb' 8 16 : Port) ++ (w.extractLsb' 0 8 : Byte) = w :=
  append_extract (n := 16) (m := 8) w

@[simp] theorem readCmd_init : readCmd (cmdWord 0x01 0x00) = .ok .init := by decide
@[simp] theorem readCmd_rdirr : readCmd (cmdWord 0x05 0x00) = .ok .rdirr := by decide
@[simp] theorem readCmd_rdisr : readCmd (cmdWord 0x06 0x00) = .ok .rdisr := by decide

@[simp] theorem readCmd_enable (l : Byte) : readCmd (cmdWord 0x02 l) = .ok (.enable l) := by
  rw [readCmd, opField_cmdWord, lineField_cmdWord]; rfl

@[simp] theorem readCmd_disable (l : Byte) : readCmd (cmdWord 0x03 l) = .ok (.disable l) := by
  rw [readCmd, opField_cmdWord, lineField_cmdWord]; rfl

@[simp] theorem readCmd_eoi (l : Byte) : readCmd (cmdWord 0x04 l) = .ok (.eoi l) := by
  rw [readCmd, opField_cmdWord, lineField_cmdWord]; rfl

/-- A command's word reads as the command, its line in range or not (R60, R61). -/
theorem readCmd_encodeCmd (i : Instr) (h : i.isCommand = true) : readCmd (encodeCmd i) = .ok i := by
  cases i
  case init => exact readCmd_init
  case enable l => exact readCmd_enable l
  case disable l => exact readCmd_disable l
  case eoi l => exact readCmd_eoi l
  case rdirr => exact readCmd_rdirr
  case rdisr => exact readCmd_rdisr
  all_goals cases h

/-- A word that reads as a command is that command's word (R61). -/
theorem encodeCmd_of_readCmd (w : Half) (i : Instr) (h : readCmd w = .ok i) : encodeCmd i = w ∧ i.isCommand = true := by
  have op_eq : ∀ n : Nat, (opField w).toNat = n → opField w = BitVec.ofNat 8 n :=
    fun n hn => BitVec.eq_of_toNat_eq (by rw [← hn]; simp)
  have hw := cmdWord_fields w
  rw [readCmd] at h
  split at h <;> rename_i ho <;> (try rw [noOperand] at h) <;> (try split at h) <;> cases h <;>
    refine ⟨?_, rfl⟩ <;> rw [op_eq _ ho] at hw <;> (try rename_i hl; rw [hl] at hw) <;> exact hw

/-- A word that reads as a command reads as one of the six (R61). -/
theorem readCmd_cases (w : Half) (i : Instr) (h : readCmd w = .ok i) :
    i = .init ∨ (∃ l, i = .enable l) ∨ (∃ l, i = .disable l) ∨ (∃ l, i = .eoi l) ∨ i = .rdirr ∨ i = .rdisr := by
  have hc := (encodeCmd_of_readCmd w i h).2
  cases i <;> first | (cases hc; done) | simp

namespace Machine

@[simp] theorem lo_pair (a b : Byte) : lo (pair a b) = b := extract_append_low a b
@[simp] theorem hi_pair (a b : Byte) : hi (pair a b) = a := extract_append_high a b
@[simp] theorem pair_hi_lo (m : Half) : pair (hi m) (lo m) = m := append_extract (n := 8) (m := 8) m

/-- Bit `k` of the low byte (R45). -/
theorem getLsbD_lo (m : Half) (k : Nat) : (lo m).getLsbD k = (decide (k < 8) && m.getLsbD k) := by
  rw [lo, BitVec.getLsbD_extractLsb', Nat.zero_add]

/-- Bit `k` of the high byte (R45). -/
theorem getLsbD_hi (m : Half) (k : Nat) : (hi m).getLsbD k = (decide (k < 8) && m.getLsbD (8 + k)) := by
  rw [hi, BitVec.getLsbD_extractLsb']

/-- Bit `k` of a pair (R115: "no bit of one byte can reach the other's half"). -/
theorem getLsbD_pair (a b : Byte) (k : Nat) : (pair a b).getLsbD k = if k < 8 then b.getLsbD k else a.getLsbD (k - 8) := by
  rw [pair, BitVec.getLsbD_append]

theorem lineOf_toNat (l : Byte) : (lineOf l).toNat = l.toNat % 16 := by
  simp [lineOf, BitVec.extractLsb'_toNat]

/-- `bit(n)` has bit n set and no other (R62). -/
theorem getLsbD_bitOf (n : BitVec 4) (k : Nat) : (bitOf n).getLsbD k = decide (k = n.toNat) := by
  have hn := n.isLt
  rw [bitOf, BitVec.getLsbD_shiftLeft]
  by_cases h : k = n.toNat
  · subst h; simp; omega
  · by_cases h2 : k < n.toNat
    · simp [h2, h]
    · simp only [h2, h, decide_false, Bool.not_false, Bool.and_true]
      have h3 : 0 < k - n.toNat := by omega
      have : (1#16 : Half).getLsbD (k - n.toNat) = false := by
        rw [BitVec.getLsbD_one]; simp; omega
      simp [this]

/-- Every bit of the high byte is set exactly if all eight slave-side bits are (R91). -/
theorem hi_eq_ones (m : Half) : hi m = 0xFF ↔ ∀ k, 8 ≤ k → k < 16 → m.getLsbD k = true := by
  constructor
  · intro h k h8 h16
    have hk : (hi m).getLsbD (k - 8) = true := by
      rw [h]
      have : k - 8 < 8 := by omega
      generalize k - 8 = j at this
      interval_cases j <;> rfl
    rw [getLsbD_hi] at hk
    rw [show 8 + (k - 8) = k by omega] at hk
    simp_all
  · intro h
    apply BitVec.eq_of_getLsbD_eq
    intro k hk
    rw [getLsbD_hi, h (8 + k) (by omega) (by omega)]
    interval_cases k <;> rfl

end Machine

end Sys2Proof
end

