-- ==== Sys2Proof/Laws/State.lean ====
section
/-!
SUPPORT. The plain updates of a state, field by field: the refusal mark, admission, the end of a command and the
transaction list (spec/30_encoding.md R63, spec/10_state.md R16).
-/
namespace Sys2Proof.Machine

/-! ### `State.refuse` -/

@[simp] theorem State.refuse_par (r : Reject) (s : State) : (s.refuse r).par = s.par := rfl
@[simp] theorem State.refuse_irqMask (r : Reject) (s : State) : (s.refuse r).irqMask = s.irqMask := rfl
@[simp] theorem State.refuse_phase (r : Reject) (s : State) : (s.refuse r).phase = s.phase := rfl
@[simp] theorem State.refuse_result (r : Reject) (s : State) : (s.refuse r).result = s.result := rfl
@[simp] theorem State.refuse_busy (r : Reject) (s : State) : (s.refuse r).busy = s.busy := rfl
@[simp] theorem State.refuse_cmd (r : Reject) (s : State) : (s.refuse r).cmd = s.cmd := rfl
@[simp] theorem State.refuse_step (r : Reject) (s : State) : (s.refuse r).step = s.step := rfl
@[simp] theorem State.refuse_txns (r : Reject) (s : State) : (s.refuse r).txns = s.txns := rfl
@[simp] theorem State.refuse_readM (r : Reject) (s : State) : (s.refuse r).readM = s.readM := rfl
@[simp] theorem State.refuse_readS (r : Reject) (s : State) : (s.refuse r).readS = s.readS := rfl
@[simp] theorem State.refuse_master (r : Reject) (s : State) : (s.refuse r).master = s.master := rfl
@[simp] theorem State.refuse_slave (r : Reject) (s : State) : (s.refuse r).slave = s.slave := rfl
@[simp] theorem State.refuse_trace (r : Reject) (s : State) : (s.refuse r).trace = s.trace := rfl
@[simp] theorem State.refuse_refusals (r : Reject) (s : State) : (s.refuse r).refusals = s.refusals ++ [r] := rfl
@[simp] theorem State.refuse_stream (r : Reject) (s : State) : (s.refuse r).stream = s.stream := rfl
@[simp] theorem State.refuse_answers (r : Reject) (s : State) : (s.refuse r).answers = s.answers := rfl
@[simp] theorem State.refuse_draws (r : Reject) (s : State) : (s.refuse r).draws = s.draws := rfl

/-! ### `State.accept` -/

@[simp] theorem State.accept_par (w : Half) (s : State) : (s.accept w).par = s.par := rfl
@[simp] theorem State.accept_irqMask (w : Half) (s : State) : (s.accept w).irqMask = s.irqMask := rfl
@[simp] theorem State.accept_phase (w : Half) (s : State) : (s.accept w).phase = s.phase := rfl
@[simp] theorem State.accept_result (w : Half) (s : State) : (s.accept w).result = s.result := rfl
@[simp] theorem State.accept_busy (w : Half) (s : State) : (s.accept w).busy = true := rfl
@[simp] theorem State.accept_cmd (w : Half) (s : State) : (s.accept w).cmd = w := rfl
@[simp] theorem State.accept_step (w : Half) (s : State) : (s.accept w).step = 0 := rfl
@[simp] theorem State.accept_txns (w : Half) (s : State) : (s.accept w).txns = s.txns := rfl
@[simp] theorem State.accept_readM (w : Half) (s : State) : (s.accept w).readM = s.readM := rfl
@[simp] theorem State.accept_readS (w : Half) (s : State) : (s.accept w).readS = s.readS := rfl
@[simp] theorem State.accept_master (w : Half) (s : State) : (s.accept w).master = s.master := rfl
@[simp] theorem State.accept_slave (w : Half) (s : State) : (s.accept w).slave = s.slave := rfl
@[simp] theorem State.accept_trace (w : Half) (s : State) : (s.accept w).trace = s.trace := rfl
@[simp] theorem State.accept_refusals (w : Half) (s : State) : (s.accept w).refusals = s.refusals := rfl
@[simp] theorem State.accept_stream (w : Half) (s : State) : (s.accept w).stream = s.stream := rfl
@[simp] theorem State.accept_answers (w : Half) (s : State) : (s.accept w).answers = s.answers := rfl
@[simp] theorem State.accept_draws (w : Half) (s : State) : (s.accept w).draws = s.draws := rfl

/-! ### `State.release` -/

@[simp] theorem State.release_par (s : State) : (s.release).par = s.par := rfl
@[simp] theorem State.release_irqMask (s : State) : (s.release).irqMask = s.irqMask := rfl
@[simp] theorem State.release_phase (s : State) : (s.release).phase = s.phase := rfl
@[simp] theorem State.release_result (s : State) : (s.release).result = s.result := rfl
@[simp] theorem State.release_busy (s : State) : (s.release).busy = false := rfl
@[simp] theorem State.release_cmd (s : State) : (s.release).cmd = s.cmd := rfl
@[simp] theorem State.release_step (s : State) : (s.release).step = 0 := rfl
@[simp] theorem State.release_txns (s : State) : (s.release).txns = s.txns := rfl
@[simp] theorem State.release_readM (s : State) : (s.release).readM = s.readM := rfl
@[simp] theorem State.release_readS (s : State) : (s.release).readS = s.readS := rfl
@[simp] theorem State.release_master (s : State) : (s.release).master = s.master := rfl
@[simp] theorem State.release_slave (s : State) : (s.release).slave = s.slave := rfl
@[simp] theorem State.release_trace (s : State) : (s.release).trace = s.trace := rfl
@[simp] theorem State.release_refusals (s : State) : (s.release).refusals = s.refusals := rfl
@[simp] theorem State.release_stream (s : State) : (s.release).stream = s.stream := rfl
@[simp] theorem State.release_answers (s : State) : (s.release).answers = s.answers := rfl
@[simp] theorem State.release_draws (s : State) : (s.release).draws = s.draws := rfl

/-! ### `State.schedule` -/

@[simp] theorem State.schedule_par (l : List Instr) (s : State) : (s.schedule l).par = s.par := rfl
@[simp] theorem State.schedule_irqMask (l : List Instr) (s : State) : (s.schedule l).irqMask = s.irqMask := rfl
@[simp] theorem State.schedule_phase (l : List Instr) (s : State) : (s.schedule l).phase = s.phase := rfl
@[simp] theorem State.schedule_result (l : List Instr) (s : State) : (s.schedule l).result = s.result := rfl
@[simp] theorem State.schedule_busy (l : List Instr) (s : State) : (s.schedule l).busy = s.busy := rfl
@[simp] theorem State.schedule_cmd (l : List Instr) (s : State) : (s.schedule l).cmd = s.cmd := rfl
@[simp] theorem State.schedule_step (l : List Instr) (s : State) : (s.schedule l).step = 1 := rfl
@[simp] theorem State.schedule_txns (l : List Instr) (s : State) : (s.schedule l).txns = l := rfl
@[simp] theorem State.schedule_readM (l : List Instr) (s : State) : (s.schedule l).readM = s.readM := rfl
@[simp] theorem State.schedule_readS (l : List Instr) (s : State) : (s.schedule l).readS = s.readS := rfl
@[simp] theorem State.schedule_master (l : List Instr) (s : State) : (s.schedule l).master = s.master := rfl
@[simp] theorem State.schedule_slave (l : List Instr) (s : State) : (s.schedule l).slave = s.slave := rfl
@[simp] theorem State.schedule_trace (l : List Instr) (s : State) : (s.schedule l).trace = s.trace := rfl
@[simp] theorem State.schedule_refusals (l : List Instr) (s : State) : (s.schedule l).refusals = s.refusals := rfl
@[simp] theorem State.schedule_stream (l : List Instr) (s : State) : (s.schedule l).stream = s.stream := rfl
@[simp] theorem State.schedule_answers (l : List Instr) (s : State) : (s.schedule l).answers = s.answers := rfl
@[simp] theorem State.schedule_draws (l : List Instr) (s : State) : (s.schedule l).draws = s.draws := rfl

/-! ### `State.setMask` -/

@[simp] theorem State.setMask_par (m : Half) (s : State) : (s.setMask m).par = s.par := rfl
@[simp] theorem State.setMask_irqMask (m : Half) (s : State) : (s.setMask m).irqMask = m := rfl
@[simp] theorem State.setMask_phase (m : Half) (s : State) : (s.setMask m).phase = s.phase := rfl
@[simp] theorem State.setMask_result (m : Half) (s : State) : (s.setMask m).result = s.result := rfl
@[simp] theorem State.setMask_busy (m : Half) (s : State) : (s.setMask m).busy = s.busy := rfl
@[simp] theorem State.setMask_cmd (m : Half) (s : State) : (s.setMask m).cmd = s.cmd := rfl
@[simp] theorem State.setMask_step (m : Half) (s : State) : (s.setMask m).step = s.step := rfl
@[simp] theorem State.setMask_txns (m : Half) (s : State) : (s.setMask m).txns = s.txns := rfl
@[simp] theorem State.setMask_readM (m : Half) (s : State) : (s.setMask m).readM = s.readM := rfl
@[simp] theorem State.setMask_readS (m : Half) (s : State) : (s.setMask m).readS = s.readS := rfl
@[simp] theorem State.setMask_master (m : Half) (s : State) : (s.setMask m).master = s.master := rfl
@[simp] theorem State.setMask_slave (m : Half) (s : State) : (s.setMask m).slave = s.slave := rfl
@[simp] theorem State.setMask_trace (m : Half) (s : State) : (s.setMask m).trace = s.trace := rfl
@[simp] theorem State.setMask_refusals (m : Half) (s : State) : (s.setMask m).refusals = s.refusals := rfl
@[simp] theorem State.setMask_stream (m : Half) (s : State) : (s.setMask m).stream = s.stream := rfl
@[simp] theorem State.setMask_answers (m : Half) (s : State) : (s.setMask m).answers = s.answers := rfl
@[simp] theorem State.setMask_draws (m : Half) (s : State) : (s.setMask m).draws = s.draws := rfl

/-! ### `State.setPhase` -/

@[simp] theorem State.setPhase_par (p : Phase) (s : State) : (s.setPhase p).par = s.par := rfl
@[simp] theorem State.setPhase_irqMask (p : Phase) (s : State) : (s.setPhase p).irqMask = s.irqMask := rfl
@[simp] theorem State.setPhase_phase (p : Phase) (s : State) : (s.setPhase p).phase = p := rfl
@[simp] theorem State.setPhase_result (p : Phase) (s : State) : (s.setPhase p).result = s.result := rfl
@[simp] theorem State.setPhase_busy (p : Phase) (s : State) : (s.setPhase p).busy = s.busy := rfl
@[simp] theorem State.setPhase_cmd (p : Phase) (s : State) : (s.setPhase p).cmd = s.cmd := rfl
@[simp] theorem State.setPhase_step (p : Phase) (s : State) : (s.setPhase p).step = s.step := rfl
@[simp] theorem State.setPhase_txns (p : Phase) (s : State) : (s.setPhase p).txns = s.txns := rfl
@[simp] theorem State.setPhase_readM (p : Phase) (s : State) : (s.setPhase p).readM = s.readM := rfl
@[simp] theorem State.setPhase_readS (p : Phase) (s : State) : (s.setPhase p).readS = s.readS := rfl
@[simp] theorem State.setPhase_master (p : Phase) (s : State) : (s.setPhase p).master = s.master := rfl
@[simp] theorem State.setPhase_slave (p : Phase) (s : State) : (s.setPhase p).slave = s.slave := rfl
@[simp] theorem State.setPhase_trace (p : Phase) (s : State) : (s.setPhase p).trace = s.trace := rfl
@[simp] theorem State.setPhase_refusals (p : Phase) (s : State) : (s.setPhase p).refusals = s.refusals := rfl
@[simp] theorem State.setPhase_stream (p : Phase) (s : State) : (s.setPhase p).stream = s.stream := rfl
@[simp] theorem State.setPhase_answers (p : Phase) (s : State) : (s.setPhase p).answers = s.answers := rfl
@[simp] theorem State.setPhase_draws (p : Phase) (s : State) : (s.setPhase p).draws = s.draws := rfl

/-! ### `State.setResult` -/

@[simp] theorem State.setResult_par (v : Half) (s : State) : (s.setResult v).par = s.par := rfl
@[simp] theorem State.setResult_irqMask (v : Half) (s : State) : (s.setResult v).irqMask = s.irqMask := rfl
@[simp] theorem State.setResult_phase (v : Half) (s : State) : (s.setResult v).phase = s.phase := rfl
@[simp] theorem State.setResult_result (v : Half) (s : State) : (s.setResult v).result = v := rfl
@[simp] theorem State.setResult_busy (v : Half) (s : State) : (s.setResult v).busy = s.busy := rfl
@[simp] theorem State.setResult_cmd (v : Half) (s : State) : (s.setResult v).cmd = s.cmd := rfl
@[simp] theorem State.setResult_step (v : Half) (s : State) : (s.setResult v).step = s.step := rfl
@[simp] theorem State.setResult_txns (v : Half) (s : State) : (s.setResult v).txns = s.txns := rfl
@[simp] theorem State.setResult_readM (v : Half) (s : State) : (s.setResult v).readM = s.readM := rfl
@[simp] theorem State.setResult_readS (v : Half) (s : State) : (s.setResult v).readS = s.readS := rfl
@[simp] theorem State.setResult_master (v : Half) (s : State) : (s.setResult v).master = s.master := rfl
@[simp] theorem State.setResult_slave (v : Half) (s : State) : (s.setResult v).slave = s.slave := rfl
@[simp] theorem State.setResult_trace (v : Half) (s : State) : (s.setResult v).trace = s.trace := rfl
@[simp] theorem State.setResult_refusals (v : Half) (s : State) : (s.setResult v).refusals = s.refusals := rfl
@[simp] theorem State.setResult_stream (v : Half) (s : State) : (s.setResult v).stream = s.stream := rfl
@[simp] theorem State.setResult_answers (v : Half) (s : State) : (s.setResult v).answers = s.answers := rfl
@[simp] theorem State.setResult_draws (v : Half) (s : State) : (s.setResult v).draws = s.draws := rfl

/-! ### `State.setTxns` -/

@[simp] theorem State.setTxns_par (l : List Instr) (s : State) : (s.setTxns l).par = s.par := rfl
@[simp] theorem State.setTxns_irqMask (l : List Instr) (s : State) : (s.setTxns l).irqMask = s.irqMask := rfl
@[simp] theorem State.setTxns_phase (l : List Instr) (s : State) : (s.setTxns l).phase = s.phase := rfl
@[simp] theorem State.setTxns_result (l : List Instr) (s : State) : (s.setTxns l).result = s.result := rfl
@[simp] theorem State.setTxns_busy (l : List Instr) (s : State) : (s.setTxns l).busy = s.busy := rfl
@[simp] theorem State.setTxns_cmd (l : List Instr) (s : State) : (s.setTxns l).cmd = s.cmd := rfl
@[simp] theorem State.setTxns_step (l : List Instr) (s : State) : (s.setTxns l).step = s.step := rfl
@[simp] theorem State.setTxns_txns (l : List Instr) (s : State) : (s.setTxns l).txns = l := rfl
@[simp] theorem State.setTxns_readM (l : List Instr) (s : State) : (s.setTxns l).readM = s.readM := rfl
@[simp] theorem State.setTxns_readS (l : List Instr) (s : State) : (s.setTxns l).readS = s.readS := rfl
@[simp] theorem State.setTxns_master (l : List Instr) (s : State) : (s.setTxns l).master = s.master := rfl
@[simp] theorem State.setTxns_slave (l : List Instr) (s : State) : (s.setTxns l).slave = s.slave := rfl
@[simp] theorem State.setTxns_trace (l : List Instr) (s : State) : (s.setTxns l).trace = s.trace := rfl
@[simp] theorem State.setTxns_refusals (l : List Instr) (s : State) : (s.setTxns l).refusals = s.refusals := rfl
@[simp] theorem State.setTxns_stream (l : List Instr) (s : State) : (s.setTxns l).stream = s.stream := rfl
@[simp] theorem State.setTxns_answers (l : List Instr) (s : State) : (s.setTxns l).answers = s.answers := rfl
@[simp] theorem State.setTxns_draws (l : List Instr) (s : State) : (s.setTxns l).draws = s.draws := rfl

/-! ### `State.setStream` -/

@[simp] theorem State.setStream_par (l : List Submission) (s : State) : (s.setStream l).par = s.par := rfl
@[simp] theorem State.setStream_irqMask (l : List Submission) (s : State) : (s.setStream l).irqMask = s.irqMask := rfl
@[simp] theorem State.setStream_phase (l : List Submission) (s : State) : (s.setStream l).phase = s.phase := rfl
@[simp] theorem State.setStream_result (l : List Submission) (s : State) : (s.setStream l).result = s.result := rfl
@[simp] theorem State.setStream_busy (l : List Submission) (s : State) : (s.setStream l).busy = s.busy := rfl
@[simp] theorem State.setStream_cmd (l : List Submission) (s : State) : (s.setStream l).cmd = s.cmd := rfl
@[simp] theorem State.setStream_step (l : List Submission) (s : State) : (s.setStream l).step = s.step := rfl
@[simp] theorem State.setStream_txns (l : List Submission) (s : State) : (s.setStream l).txns = s.txns := rfl
@[simp] theorem State.setStream_readM (l : List Submission) (s : State) : (s.setStream l).readM = s.readM := rfl
@[simp] theorem State.setStream_readS (l : List Submission) (s : State) : (s.setStream l).readS = s.readS := rfl
@[simp] theorem State.setStream_master (l : List Submission) (s : State) : (s.setStream l).master = s.master := rfl
@[simp] theorem State.setStream_slave (l : List Submission) (s : State) : (s.setStream l).slave = s.slave := rfl
@[simp] theorem State.setStream_trace (l : List Submission) (s : State) : (s.setStream l).trace = s.trace := rfl
@[simp] theorem State.setStream_refusals (l : List Submission) (s : State) : (s.setStream l).refusals = s.refusals := rfl
@[simp] theorem State.setStream_stream (l : List Submission) (s : State) : (s.setStream l).stream = l := rfl
@[simp] theorem State.setStream_answers (l : List Submission) (s : State) : (s.setStream l).answers = s.answers := rfl
@[simp] theorem State.setStream_draws (l : List Submission) (s : State) : (s.setStream l).draws = s.draws := rfl

/-! ### `State.advance` -/

@[simp] theorem State.advance_par (s : State) : (s.advance).par = s.par := rfl
@[simp] theorem State.advance_irqMask (s : State) : (s.advance).irqMask = s.irqMask := rfl
@[simp] theorem State.advance_phase (s : State) : (s.advance).phase = s.phase := rfl
@[simp] theorem State.advance_result (s : State) : (s.advance).result = s.result := rfl
@[simp] theorem State.advance_busy (s : State) : (s.advance).busy = s.busy := rfl
@[simp] theorem State.advance_cmd (s : State) : (s.advance).cmd = s.cmd := rfl
@[simp] theorem State.advance_step (s : State) : (s.advance).step = s.step + 1 := rfl
@[simp] theorem State.advance_txns (s : State) : (s.advance).txns = s.txns := rfl
@[simp] theorem State.advance_readM (s : State) : (s.advance).readM = s.readM := rfl
@[simp] theorem State.advance_readS (s : State) : (s.advance).readS = s.readS := rfl
@[simp] theorem State.advance_master (s : State) : (s.advance).master = s.master := rfl
@[simp] theorem State.advance_slave (s : State) : (s.advance).slave = s.slave := rfl
@[simp] theorem State.advance_trace (s : State) : (s.advance).trace = s.trace := rfl
@[simp] theorem State.advance_refusals (s : State) : (s.advance).refusals = s.refusals := rfl
@[simp] theorem State.advance_stream (s : State) : (s.advance).stream = s.stream := rfl
@[simp] theorem State.advance_answers (s : State) : (s.advance).answers = s.answers := rfl
@[simp] theorem State.advance_draws (s : State) : (s.advance).draws = s.draws := rfl

end Sys2Proof.Machine
end

