-- ==== Sys2Proof/Laws/Ops.lean ====
section
/-!
SUPPORT. What each shared operation leaves unchanged and what it adds (spec/20_memory.md R42, R43, R51; spec/10_state.md
R16): stated once, so that no later proof unfolds an operation to learn it.
-/
namespace Sys2Proof.Machine

/-! ### `State.environment`: only the chips move -/

@[simp] theorem State.environment_par (s : State) : (s.environment).par = s.par := by
  simp only [State.environment]; split <;> (try split) <;> rfl
@[simp] theorem State.environment_irqMask (s : State) : (s.environment).irqMask = s.irqMask := by
  simp only [State.environment]; split <;> (try split) <;> rfl
@[simp] theorem State.environment_phase (s : State) : (s.environment).phase = s.phase := by
  simp only [State.environment]; split <;> (try split) <;> rfl
@[simp] theorem State.environment_result (s : State) : (s.environment).result = s.result := by
  simp only [State.environment]; split <;> (try split) <;> rfl
@[simp] theorem State.environment_busy (s : State) : (s.environment).busy = s.busy := by
  simp only [State.environment]; split <;> (try split) <;> rfl
@[simp] theorem State.environment_cmd (s : State) : (s.environment).cmd = s.cmd := by
  simp only [State.environment]; split <;> (try split) <;> rfl
@[simp] theorem State.environment_step (s : State) : (s.environment).step = s.step := by
  simp only [State.environment]; split <;> (try split) <;> rfl
@[simp] theorem State.environment_txns (s : State) : (s.environment).txns = s.txns := by
  simp only [State.environment]; split <;> (try split) <;> rfl
@[simp] theorem State.environment_readM (s : State) : (s.environment).readM = s.readM := by
  simp only [State.environment]; split <;> (try split) <;> rfl
@[simp] theorem State.environment_readS (s : State) : (s.environment).readS = s.readS := by
  simp only [State.environment]; split <;> (try split) <;> rfl
@[simp] theorem State.environment_trace (s : State) : (s.environment).trace = s.trace := by
  simp only [State.environment]; split <;> (try split) <;> rfl
@[simp] theorem State.environment_refusals (s : State) : (s.environment).refusals = s.refusals := by
  simp only [State.environment]; split <;> (try split) <;> rfl
@[simp] theorem State.environment_stream (s : State) : (s.environment).stream = s.stream := by
  simp only [State.environment]; split <;> (try split) <;> rfl
@[simp] theorem State.environment_answers (s : State) : (s.environment).answers = s.answers := by
  simp only [State.environment]; split <;> (try split) <;> rfl
@[simp] theorem State.environment_draws (s : State) : (s.environment).draws = s.draws := by
  simp only [State.environment]; split <;> (try split) <;> rfl

/-! ### `State.chipsTake`: only the chips move -/

@[simp] theorem State.chipsTake_par (p : Port) (v : Byte) (s : State) : (s.chipsTake p v).par = s.par := by
  simp only [State.chipsTake]; split_ifs <;> rfl
@[simp] theorem State.chipsTake_irqMask (p : Port) (v : Byte) (s : State) : (s.chipsTake p v).irqMask = s.irqMask := by
  simp only [State.chipsTake]; split_ifs <;> rfl
@[simp] theorem State.chipsTake_phase (p : Port) (v : Byte) (s : State) : (s.chipsTake p v).phase = s.phase := by
  simp only [State.chipsTake]; split_ifs <;> rfl
@[simp] theorem State.chipsTake_result (p : Port) (v : Byte) (s : State) : (s.chipsTake p v).result = s.result := by
  simp only [State.chipsTake]; split_ifs <;> rfl
@[simp] theorem State.chipsTake_busy (p : Port) (v : Byte) (s : State) : (s.chipsTake p v).busy = s.busy := by
  simp only [State.chipsTake]; split_ifs <;> rfl
@[simp] theorem State.chipsTake_cmd (p : Port) (v : Byte) (s : State) : (s.chipsTake p v).cmd = s.cmd := by
  simp only [State.chipsTake]; split_ifs <;> rfl
@[simp] theorem State.chipsTake_step (p : Port) (v : Byte) (s : State) : (s.chipsTake p v).step = s.step := by
  simp only [State.chipsTake]; split_ifs <;> rfl
@[simp] theorem State.chipsTake_txns (p : Port) (v : Byte) (s : State) : (s.chipsTake p v).txns = s.txns := by
  simp only [State.chipsTake]; split_ifs <;> rfl
@[simp] theorem State.chipsTake_readM (p : Port) (v : Byte) (s : State) : (s.chipsTake p v).readM = s.readM := by
  simp only [State.chipsTake]; split_ifs <;> rfl
@[simp] theorem State.chipsTake_readS (p : Port) (v : Byte) (s : State) : (s.chipsTake p v).readS = s.readS := by
  simp only [State.chipsTake]; split_ifs <;> rfl
@[simp] theorem State.chipsTake_trace (p : Port) (v : Byte) (s : State) : (s.chipsTake p v).trace = s.trace := by
  simp only [State.chipsTake]; split_ifs <;> rfl
@[simp] theorem State.chipsTake_refusals (p : Port) (v : Byte) (s : State) : (s.chipsTake p v).refusals = s.refusals := by
  simp only [State.chipsTake]; split_ifs <;> rfl
@[simp] theorem State.chipsTake_stream (p : Port) (v : Byte) (s : State) : (s.chipsTake p v).stream = s.stream := by
  simp only [State.chipsTake]; split_ifs <;> rfl
@[simp] theorem State.chipsTake_answers (p : Port) (v : Byte) (s : State) : (s.chipsTake p v).answers = s.answers := by
  simp only [State.chipsTake]; split_ifs <;> rfl
@[simp] theorem State.chipsTake_draws (p : Port) (v : Byte) (s : State) : (s.chipsTake p v).draws = s.draws := by
  simp only [State.chipsTake]; split_ifs <;> rfl

/-! ### `State.chipsAnswer`: only the chips move -/

@[simp] theorem State.chipsAnswer_par (p : Port) (s : State) : (s.chipsAnswer p).par = s.par := by
  simp only [State.chipsAnswer]; split_ifs <;> rfl
@[simp] theorem State.chipsAnswer_irqMask (p : Port) (s : State) : (s.chipsAnswer p).irqMask = s.irqMask := by
  simp only [State.chipsAnswer]; split_ifs <;> rfl
@[simp] theorem State.chipsAnswer_phase (p : Port) (s : State) : (s.chipsAnswer p).phase = s.phase := by
  simp only [State.chipsAnswer]; split_ifs <;> rfl
@[simp] theorem State.chipsAnswer_result (p : Port) (s : State) : (s.chipsAnswer p).result = s.result := by
  simp only [State.chipsAnswer]; split_ifs <;> rfl
@[simp] theorem State.chipsAnswer_busy (p : Port) (s : State) : (s.chipsAnswer p).busy = s.busy := by
  simp only [State.chipsAnswer]; split_ifs <;> rfl
@[simp] theorem State.chipsAnswer_cmd (p : Port) (s : State) : (s.chipsAnswer p).cmd = s.cmd := by
  simp only [State.chipsAnswer]; split_ifs <;> rfl
@[simp] theorem State.chipsAnswer_step (p : Port) (s : State) : (s.chipsAnswer p).step = s.step := by
  simp only [State.chipsAnswer]; split_ifs <;> rfl
@[simp] theorem State.chipsAnswer_txns (p : Port) (s : State) : (s.chipsAnswer p).txns = s.txns := by
  simp only [State.chipsAnswer]; split_ifs <;> rfl
@[simp] theorem State.chipsAnswer_readM (p : Port) (s : State) : (s.chipsAnswer p).readM = s.readM := by
  simp only [State.chipsAnswer]; split_ifs <;> rfl
@[simp] theorem State.chipsAnswer_readS (p : Port) (s : State) : (s.chipsAnswer p).readS = s.readS := by
  simp only [State.chipsAnswer]; split_ifs <;> rfl
@[simp] theorem State.chipsAnswer_trace (p : Port) (s : State) : (s.chipsAnswer p).trace = s.trace := by
  simp only [State.chipsAnswer]; split_ifs <;> rfl
@[simp] theorem State.chipsAnswer_refusals (p : Port) (s : State) : (s.chipsAnswer p).refusals = s.refusals := by
  simp only [State.chipsAnswer]; split_ifs <;> rfl
@[simp] theorem State.chipsAnswer_stream (p : Port) (s : State) : (s.chipsAnswer p).stream = s.stream := by
  simp only [State.chipsAnswer]; split_ifs <;> rfl
@[simp] theorem State.chipsAnswer_answers (p : Port) (s : State) : (s.chipsAnswer p).answers = s.answers := by
  simp only [State.chipsAnswer]; split_ifs <;> rfl
@[simp] theorem State.chipsAnswer_draws (p : Port) (s : State) : (s.chipsAnswer p).draws = s.draws := by
  simp only [State.chipsAnswer]; split_ifs <;> rfl

/-! ### `State.latchByte`: only READREG's temporaries move -/

@[simp] theorem State.latchByte_par (p : Port) (v : Byte) (s : State) : (s.latchByte p v).par = s.par := by
  simp only [State.latchByte]; split_ifs <;> rfl
@[simp] theorem State.latchByte_irqMask (p : Port) (v : Byte) (s : State) : (s.latchByte p v).irqMask = s.irqMask := by
  simp only [State.latchByte]; split_ifs <;> rfl
@[simp] theorem State.latchByte_phase (p : Port) (v : Byte) (s : State) : (s.latchByte p v).phase = s.phase := by
  simp only [State.latchByte]; split_ifs <;> rfl
@[simp] theorem State.latchByte_result (p : Port) (v : Byte) (s : State) : (s.latchByte p v).result = s.result := by
  simp only [State.latchByte]; split_ifs <;> rfl
@[simp] theorem State.latchByte_busy (p : Port) (v : Byte) (s : State) : (s.latchByte p v).busy = s.busy := by
  simp only [State.latchByte]; split_ifs <;> rfl
@[simp] theorem State.latchByte_cmd (p : Port) (v : Byte) (s : State) : (s.latchByte p v).cmd = s.cmd := by
  simp only [State.latchByte]; split_ifs <;> rfl
@[simp] theorem State.latchByte_step (p : Port) (v : Byte) (s : State) : (s.latchByte p v).step = s.step := by
  simp only [State.latchByte]; split_ifs <;> rfl
@[simp] theorem State.latchByte_txns (p : Port) (v : Byte) (s : State) : (s.latchByte p v).txns = s.txns := by
  simp only [State.latchByte]; split_ifs <;> rfl
@[simp] theorem State.latchByte_master (p : Port) (v : Byte) (s : State) : (s.latchByte p v).master = s.master := by
  simp only [State.latchByte]; split_ifs <;> rfl
@[simp] theorem State.latchByte_slave (p : Port) (v : Byte) (s : State) : (s.latchByte p v).slave = s.slave := by
  simp only [State.latchByte]; split_ifs <;> rfl
@[simp] theorem State.latchByte_trace (p : Port) (v : Byte) (s : State) : (s.latchByte p v).trace = s.trace := by
  simp only [State.latchByte]; split_ifs <;> rfl
@[simp] theorem State.latchByte_refusals (p : Port) (v : Byte) (s : State) : (s.latchByte p v).refusals = s.refusals := by
  simp only [State.latchByte]; split_ifs <;> rfl
@[simp] theorem State.latchByte_stream (p : Port) (v : Byte) (s : State) : (s.latchByte p v).stream = s.stream := by
  simp only [State.latchByte]; split_ifs <;> rfl
@[simp] theorem State.latchByte_answers (p : Port) (v : Byte) (s : State) : (s.latchByte p v).answers = s.answers := by
  simp only [State.latchByte]; split_ifs <;> rfl
@[simp] theorem State.latchByte_draws (p : Port) (v : Byte) (s : State) : (s.latchByte p v).draws = s.draws := by
  simp only [State.latchByte]; split_ifs <;> rfl

/-! ### `State.portWrite`: one event, the chips, nothing else -/

@[simp] theorem State.portWrite_par (p : Port) (v : Byte) (s : State) : (s.portWrite p v).par = s.par := by
  simp [State.portWrite]
@[simp] theorem State.portWrite_irqMask (p : Port) (v : Byte) (s : State) : (s.portWrite p v).irqMask = s.irqMask := by
  simp [State.portWrite]
@[simp] theorem State.portWrite_phase (p : Port) (v : Byte) (s : State) : (s.portWrite p v).phase = s.phase := by
  simp [State.portWrite]
@[simp] theorem State.portWrite_result (p : Port) (v : Byte) (s : State) : (s.portWrite p v).result = s.result := by
  simp [State.portWrite]
@[simp] theorem State.portWrite_busy (p : Port) (v : Byte) (s : State) : (s.portWrite p v).busy = s.busy := by
  simp [State.portWrite]
@[simp] theorem State.portWrite_cmd (p : Port) (v : Byte) (s : State) : (s.portWrite p v).cmd = s.cmd := by
  simp [State.portWrite]
@[simp] theorem State.portWrite_step (p : Port) (v : Byte) (s : State) : (s.portWrite p v).step = s.step := by
  simp [State.portWrite]
@[simp] theorem State.portWrite_txns (p : Port) (v : Byte) (s : State) : (s.portWrite p v).txns = s.txns := by
  simp [State.portWrite]
@[simp] theorem State.portWrite_readM (p : Port) (v : Byte) (s : State) : (s.portWrite p v).readM = s.readM := by
  simp [State.portWrite]
@[simp] theorem State.portWrite_readS (p : Port) (v : Byte) (s : State) : (s.portWrite p v).readS = s.readS := by
  simp [State.portWrite]
@[simp] theorem State.portWrite_refusals (p : Port) (v : Byte) (s : State) : (s.portWrite p v).refusals = s.refusals := by
  simp [State.portWrite]
@[simp] theorem State.portWrite_stream (p : Port) (v : Byte) (s : State) : (s.portWrite p v).stream = s.stream := by
  simp [State.portWrite]
@[simp] theorem State.portWrite_answers (p : Port) (v : Byte) (s : State) : (s.portWrite p v).answers = s.answers := by
  simp [State.portWrite]

@[simp] theorem State.portWrite_trace (p : Port) (v : Byte) (s : State) :
    (s.portWrite p v).trace = s.trace ++ [.w p v] := by
  simp [State.portWrite]

@[simp] theorem State.portWrite_draws (p : Port) (v : Byte) (s : State) :
    (s.portWrite p v).draws = s.draws + 1 := by
  simp [State.portWrite]

@[simp] theorem State.portWrite_master (p : Port) (v : Byte) (s : State) :
    (s.portWrite p v).master = (s.environment.chipsTake p v).master := rfl

@[simp] theorem State.portWrite_slave (p : Port) (v : Byte) (s : State) :
    (s.portWrite p v).slave = (s.environment.chipsTake p v).slave := rfl

/-! ### `State.portRead`: one event, one answer used, one temporary, the chips -/

@[simp] theorem State.portRead_par (p : Port) (s : State) : (s.portRead p).par = s.par := by
  simp [State.portRead]
@[simp] theorem State.portRead_irqMask (p : Port) (s : State) : (s.portRead p).irqMask = s.irqMask := by
  simp [State.portRead]
@[simp] theorem State.portRead_phase (p : Port) (s : State) : (s.portRead p).phase = s.phase := by
  simp [State.portRead]
@[simp] theorem State.portRead_result (p : Port) (s : State) : (s.portRead p).result = s.result := by
  simp [State.portRead]
@[simp] theorem State.portRead_busy (p : Port) (s : State) : (s.portRead p).busy = s.busy := by
  simp [State.portRead]
@[simp] theorem State.portRead_cmd (p : Port) (s : State) : (s.portRead p).cmd = s.cmd := by
  simp [State.portRead]
@[simp] theorem State.portRead_step (p : Port) (s : State) : (s.portRead p).step = s.step := by
  simp [State.portRead]
@[simp] theorem State.portRead_txns (p : Port) (s : State) : (s.portRead p).txns = s.txns := by
  simp [State.portRead]
@[simp] theorem State.portRead_refusals (p : Port) (s : State) : (s.portRead p).refusals = s.refusals := by
  simp [State.portRead]
@[simp] theorem State.portRead_stream (p : Port) (s : State) : (s.portRead p).stream = s.stream := by
  simp [State.portRead]

@[simp] theorem State.portRead_trace (p : Port) (s : State) :
    (s.portRead p).trace = s.trace ++ [.r p (s.environment.readByte p)] := by
  simp [State.portRead]

@[simp] theorem State.portRead_draws (p : Port) (s : State) : (s.portRead p).draws = s.draws + 1 := by
  simp [State.portRead]

@[simp] theorem State.portRead_answers (p : Port) (s : State) : (s.portRead p).answers = s.answers.tail := by
  simp [State.portRead]

@[simp] theorem State.portRead_readM (p : Port) (s : State) :
    (s.portRead p).readM = if p = Config.masterCmd then s.environment.readByte p else s.readM := by
  simp only [State.portRead, State.latchByte]
  split_ifs <;> simp

@[simp] theorem State.portRead_readS (p : Port) (s : State) :
    (s.portRead p).readS = if p = Config.slaveCmd then s.environment.readByte p else s.readS := by
  simp only [State.portRead, State.latchByte]
  split_ifs with h1 h2
  · subst h1; exact absurd h2 (by decide)
  all_goals simp

@[simp] theorem State.portRead_master (p : Port) (s : State) :
    (s.portRead p).master = (s.environment.chipsAnswer p).master := by
  simp [State.portRead]

@[simp] theorem State.portRead_slave (p : Port) (s : State) :
    (s.portRead p).slave = (s.environment.chipsAnswer p).slave := by
  simp [State.portRead]

/-! ### `State.emit`: a transaction's frame -/

@[simp] theorem State.emit_par (i : Instr) (s : State) : (s.emit i).par = s.par := by
  simp only [State.emit]; split <;> simp
@[simp] theorem State.emit_irqMask (i : Instr) (s : State) : (s.emit i).irqMask = s.irqMask := by
  simp only [State.emit]; split <;> simp
@[simp] theorem State.emit_phase (i : Instr) (s : State) : (s.emit i).phase = s.phase := by
  simp only [State.emit]; split <;> simp
@[simp] theorem State.emit_result (i : Instr) (s : State) : (s.emit i).result = s.result := by
  simp only [State.emit]; split <;> simp
@[simp] theorem State.emit_busy (i : Instr) (s : State) : (s.emit i).busy = s.busy := by
  simp only [State.emit]; split <;> simp
@[simp] theorem State.emit_cmd (i : Instr) (s : State) : (s.emit i).cmd = s.cmd := by
  simp only [State.emit]; split <;> simp
@[simp] theorem State.emit_step (i : Instr) (s : State) : (s.emit i).step = s.step := by
  simp only [State.emit]; split <;> simp
@[simp] theorem State.emit_txns (i : Instr) (s : State) : (s.emit i).txns = s.txns := by
  simp only [State.emit]; split <;> simp
@[simp] theorem State.emit_refusals (i : Instr) (s : State) : (s.emit i).refusals = s.refusals := by
  simp only [State.emit]; split <;> simp
@[simp] theorem State.emit_stream (i : Instr) (s : State) : (s.emit i).stream = s.stream := by
  simp only [State.emit]; split <;> simp

/-- A transaction extends the trace and drops nothing of it (R51, R57). -/
theorem State.emit_trace (i : Instr) (s : State) : ∃ l, (s.emit i).trace = s.trace ++ l := by
  simp only [State.emit]
  split
  · exact ⟨_, State.portWrite_trace ..⟩
  · exact ⟨_, State.portRead_trace ..⟩
  · exact ⟨[], by simp⟩

/-! ### `State.complete`: only `phase` and `result` move -/

@[simp] theorem State.complete_par (s : State) : (s.complete).par = s.par := by
  simp only [State.complete]; split <;> rfl
@[simp] theorem State.complete_irqMask (s : State) : (s.complete).irqMask = s.irqMask := by
  simp only [State.complete]; split <;> rfl
@[simp] theorem State.complete_busy (s : State) : (s.complete).busy = s.busy := by
  simp only [State.complete]; split <;> rfl
@[simp] theorem State.complete_cmd (s : State) : (s.complete).cmd = s.cmd := by
  simp only [State.complete]; split <;> rfl
@[simp] theorem State.complete_step (s : State) : (s.complete).step = s.step := by
  simp only [State.complete]; split <;> rfl
@[simp] theorem State.complete_txns (s : State) : (s.complete).txns = s.txns := by
  simp only [State.complete]; split <;> rfl
@[simp] theorem State.complete_readM (s : State) : (s.complete).readM = s.readM := by
  simp only [State.complete]; split <;> rfl
@[simp] theorem State.complete_readS (s : State) : (s.complete).readS = s.readS := by
  simp only [State.complete]; split <;> rfl
@[simp] theorem State.complete_master (s : State) : (s.complete).master = s.master := by
  simp only [State.complete]; split <;> rfl
@[simp] theorem State.complete_slave (s : State) : (s.complete).slave = s.slave := by
  simp only [State.complete]; split <;> rfl
@[simp] theorem State.complete_trace (s : State) : (s.complete).trace = s.trace := by
  simp only [State.complete]; split <;> rfl
@[simp] theorem State.complete_refusals (s : State) : (s.complete).refusals = s.refusals := by
  simp only [State.complete]; split <;> rfl
@[simp] theorem State.complete_stream (s : State) : (s.complete).stream = s.stream := by
  simp only [State.complete]; split <;> rfl
@[simp] theorem State.complete_answers (s : State) : (s.complete).answers = s.answers := by
  simp only [State.complete]; split <;> rfl
@[simp] theorem State.complete_draws (s : State) : (s.complete).draws = s.draws := by
  simp only [State.complete]; split <;> rfl

/-! ### `State.retire`: only `phase`, `result`, `busy` and `step` move -/

@[simp] theorem State.retire_par (s : State) : (s.retire).par = s.par := by
  simp only [State.retire]; split <;> simp
@[simp] theorem State.retire_irqMask (s : State) : (s.retire).irqMask = s.irqMask := by
  simp only [State.retire]; split <;> simp
@[simp] theorem State.retire_cmd (s : State) : (s.retire).cmd = s.cmd := by
  simp only [State.retire]; split <;> simp
@[simp] theorem State.retire_txns (s : State) : (s.retire).txns = s.txns := by
  simp only [State.retire]; split <;> simp
@[simp] theorem State.retire_readM (s : State) : (s.retire).readM = s.readM := by
  simp only [State.retire]; split <;> simp
@[simp] theorem State.retire_readS (s : State) : (s.retire).readS = s.readS := by
  simp only [State.retire]; split <;> simp
@[simp] theorem State.retire_master (s : State) : (s.retire).master = s.master := by
  simp only [State.retire]; split <;> simp
@[simp] theorem State.retire_slave (s : State) : (s.retire).slave = s.slave := by
  simp only [State.retire]; split <;> simp
@[simp] theorem State.retire_trace (s : State) : (s.retire).trace = s.trace := by
  simp only [State.retire]; split <;> simp
@[simp] theorem State.retire_refusals (s : State) : (s.retire).refusals = s.refusals := by
  simp only [State.retire]; split <;> simp
@[simp] theorem State.retire_stream (s : State) : (s.retire).stream = s.stream := by
  simp only [State.retire]; split <;> simp
@[simp] theorem State.retire_answers (s : State) : (s.retire).answers = s.answers := by
  simp only [State.retire]; split <;> simp
@[simp] theorem State.retire_draws (s : State) : (s.retire).draws = s.draws := by
  simp only [State.retire]; split <;> simp

/-! ### `State.runTxns`: the frame of a whole list -/

@[simp] theorem State.runTxns_par (l : List Instr) (s : State) : (State.runTxns l s).par = s.par := by
  induction l generalizing s with
  | nil => rfl
  | cons i rest ih => simp [State.runTxns, ih]

@[simp] theorem State.runTxns_irqMask (l : List Instr) (s : State) : (State.runTxns l s).irqMask = s.irqMask := by
  induction l generalizing s with
  | nil => rfl
  | cons i rest ih => simp [State.runTxns, ih]

@[simp] theorem State.runTxns_cmd (l : List Instr) (s : State) : (State.runTxns l s).cmd = s.cmd := by
  induction l generalizing s with
  | nil => rfl
  | cons i rest ih => simp [State.runTxns, ih]

@[simp] theorem State.runTxns_refusals (l : List Instr) (s : State) : (State.runTxns l s).refusals = s.refusals := by
  induction l generalizing s with
  | nil => rfl
  | cons i rest ih => simp [State.runTxns, ih]

@[simp] theorem State.runTxns_stream (l : List Instr) (s : State) : (State.runTxns l s).stream = s.stream := by
  induction l generalizing s with
  | nil => rfl
  | cons i rest ih => simp [State.runTxns, ih]

/-- Running a list extends the trace and drops nothing of it (R51, R57). -/
theorem State.runTxns_trace (l : List Instr) (s : State) : ∃ m, (State.runTxns l s).trace = s.trace ++ m := by
  induction l generalizing s with
  | nil => exact ⟨[], by simp [State.runTxns]⟩
  | cons i rest ih =>
    obtain ⟨m1, h1⟩ := State.emit_trace i (s.setTxns rest)
    obtain ⟨m2, h2⟩ := ih (State.retire (State.emit i (s.setTxns rest)))
    exact ⟨m1 ++ m2, by simp [State.runTxns, h2, h1]⟩

end Sys2Proof.Machine
end

