-- ==== Sys2Proof/Laws/Chips.lean ====
section
/-!
SUPPORT. What the chips hold after the environment's move and after a written byte, port by port (spec/10_state.md R19 to
R23, spec/20_memory.md R41, R48, R50), what an end-of-interrupt byte ends, and which lines come into service
(spec/60_exceptions.md R123 to R128): stated once, so that no later proof unfolds these operations to learn it.
-/
namespace Sys2Proof.Machine

/-! ## The environment: IRR and ISR only (R22) -/

@[simp] theorem State.environment_master_imr (s : State) : s.environment.master.imr = s.master.imr := by
  unfold State.environment; split <;> (try split) <;> rfl
@[simp] theorem State.environment_master_icwStep (s : State) : s.environment.master.icwStep = s.master.icwStep := by
  unfold State.environment; split <;> (try split) <;> rfl
@[simp] theorem State.environment_master_rsel (s : State) : s.environment.master.rsel = s.master.rsel := by
  unfold State.environment; split <;> (try split) <;> rfl
@[simp] theorem State.environment_master_vbase (s : State) : s.environment.master.vbase = s.master.vbase := by
  unfold State.environment; split <;> (try split) <;> rfl
@[simp] theorem State.environment_master_cascade (s : State) : s.environment.master.cascade = s.master.cascade := by
  unfold State.environment; split <;> (try split) <;> rfl
@[simp] theorem State.environment_master_mode (s : State) : s.environment.master.mode = s.master.mode := by
  unfold State.environment; split <;> (try split) <;> rfl
@[simp] theorem State.environment_slave_imr (s : State) : s.environment.slave.imr = s.slave.imr := by
  unfold State.environment; split <;> (try split) <;> rfl
@[simp] theorem State.environment_slave_icwStep (s : State) : s.environment.slave.icwStep = s.slave.icwStep := by
  unfold State.environment; split <;> (try split) <;> rfl
@[simp] theorem State.environment_slave_rsel (s : State) : s.environment.slave.rsel = s.slave.rsel := by
  unfold State.environment; split <;> (try split) <;> rfl
@[simp] theorem State.environment_slave_vbase (s : State) : s.environment.slave.vbase = s.slave.vbase := by
  unfold State.environment; split <;> (try split) <;> rfl
@[simp] theorem State.environment_slave_cascade (s : State) : s.environment.slave.cascade = s.slave.cascade := by
  unfold State.environment; split <;> (try split) <;> rfl
@[simp] theorem State.environment_slave_mode (s : State) : s.environment.slave.mode = s.slave.mode := by
  unfold State.environment; split <;> (try split) <;> rfl

/-- Without chips the environment moves nothing (R50). -/
theorem State.environment_absent {s : State} (h : s.par.chipsPresent = false) : s.environment = s := by
  simp [State.environment, h]

/-! ## A written byte, port by port (R41, R48) -/

theorem State.chipsTake_masterCmd {s : State} (v : Byte) (h : s.par.chipsPresent = true) :
    (s.chipsTake Config.masterCmd v).master = takeCommand (s.byteChip .master) s.masterAcked v s.master ∧
      (s.chipsTake Config.masterCmd v).slave = s.slave := by
  simp [State.chipsTake, h, Config.masterCmd, Config.masterData, Config.slaveCmd, Config.slaveData]

theorem State.chipsTake_masterData {s : State} (v : Byte) (h : s.par.chipsPresent = true) :
    (s.chipsTake Config.masterData v).master = takeData s.par.icwPorts (s.byteChip .master) v s.master ∧
      (s.chipsTake Config.masterData v).slave = s.slave := by
  simp [State.chipsTake, h, Config.masterCmd, Config.masterData, Config.slaveCmd, Config.slaveData]

theorem State.chipsTake_slaveCmd {s : State} (v : Byte) (h : s.par.chipsPresent = true) :
    (s.chipsTake Config.slaveCmd v).slave = takeCommand (s.byteChip .slave) s.slaveAcked v s.slave ∧
      (s.chipsTake Config.slaveCmd v).master = s.master := by
  simp [State.chipsTake, h, Config.masterCmd, Config.masterData, Config.slaveCmd, Config.slaveData]

theorem State.chipsTake_slaveData {s : State} (v : Byte) (h : s.par.chipsPresent = true) :
    (s.chipsTake Config.slaveData v).slave = takeData s.par.icwPorts (s.byteChip .slave) v s.slave ∧
      (s.chipsTake Config.slaveData v).master = s.master := by
  simp [State.chipsTake, h, Config.masterCmd, Config.masterData, Config.slaveCmd, Config.slaveData]

/-- Without chips a written byte is lost (R50). -/
theorem State.chipsTake_absent {s : State} (p : Port) (v : Byte) (h : s.par.chipsPresent = false) :
    s.chipsTake p v = s := by
  simp [State.chipsTake, h]

/-! ## The whole primitive `PortWrite` -/

theorem State.portWrite_masterCmd {s : State} (v : Byte) (h : s.par.chipsPresent = true) :
    (s.portWrite Config.masterCmd v).master = takeCommand (s.byteChip .master) s.environment.masterAcked v s.environment.master ∧
      (s.portWrite Config.masterCmd v).slave = s.environment.slave := by
  have he : s.environment.par.chipsPresent = true := by simpa using h
  have := State.chipsTake_masterCmd v he
  simpa [State.byteChip] using this

theorem State.portWrite_masterData {s : State} (v : Byte) (h : s.par.chipsPresent = true) :
    (s.portWrite Config.masterData v).master = takeData s.par.icwPorts (s.byteChip .master) v s.environment.master ∧
      (s.portWrite Config.masterData v).slave = s.environment.slave := by
  have he : s.environment.par.chipsPresent = true := by simpa using h
  have := State.chipsTake_masterData v he
  simpa [State.byteChip] using this

theorem State.portWrite_slaveCmd {s : State} (v : Byte) (h : s.par.chipsPresent = true) :
    (s.portWrite Config.slaveCmd v).slave = takeCommand (s.byteChip .slave) s.environment.slaveAcked v s.environment.slave ∧
      (s.portWrite Config.slaveCmd v).master = s.environment.master := by
  have he : s.environment.par.chipsPresent = true := by simpa using h
  have := State.chipsTake_slaveCmd v he
  simpa [State.byteChip] using this

theorem State.portWrite_slaveData {s : State} (v : Byte) (h : s.par.chipsPresent = true) :
    (s.portWrite Config.slaveData v).slave = takeData s.par.icwPorts (s.byteChip .slave) v s.environment.slave ∧
      (s.portWrite Config.slaveData v).master = s.environment.master := by
  have he : s.environment.par.chipsPresent = true := by simpa using h
  have := State.chipsTake_slaveData v he
  simpa [State.byteChip] using this

/-! ## A chip: an ICW or the mask byte (R19, R20, R23) -/

theorem takeData_mask (ports : IcwPorts) (free : Chip) {c : Chip} (v : Byte) (h : c.icwStep = 0) :
    takeData ports free v c = { c with imr := v } := by
  simp [takeData, h]

/-- Inside a sequence, on the port `ICW_PORTS` names. -/
theorem takeData_icw (free : Chip) {c : Chip} (v : Byte) (h : c.icwStep ≠ 0) :
    takeData .split free v c = takeIcw v c := by
  simp [takeData, h]

theorem takeIcw_icw2 {c : Chip} (v : Byte) (h : c.icwStep = 3) :
    takeIcw v c = { c with vbase := v, icwStep := 2 } := by
  simp only [takeIcw, h]

theorem takeIcw_icw3 {c : Chip} (v : Byte) (h : c.icwStep = 2) :
    takeIcw v c = { c with cascade := v, icwStep := 1 } := by
  simp only [takeIcw, h]

theorem takeIcw_icw4 {c : Chip} (v : Byte) (h : c.icwStep = 1) :
    takeIcw v c = { c with mode := v, icwStep := 0 } := by
  simp only [takeIcw, h]

/-! ## A chip: a command-port byte (R20, R21, R48, R108) -/

theorem takeCommand_icw1 (free acked c : Chip) :
    takeCommand free acked Config.icw1 c = { free with icwStep := 3, owed := 0 } := by
  simp [takeCommand]

theorem takeCommand_selectIrr (free acked : Chip) {c : Chip} (h : c.icwStep = 0) :
    takeCommand free acked Config.selectIrr c = { c with rsel := .irr } := by
  simp [takeCommand, h, Config.icw1, Config.selectIrr]

theorem takeCommand_selectIsr (free acked : Chip) {c : Chip} (h : c.icwStep = 0) :
    takeCommand free acked Config.selectIsr c = { c with rsel := .isr } := by
  simp [takeCommand, h, Config.icw1, Config.selectIrr, Config.selectIsr]

theorem takeCommand_eoi (free acked : Chip) {c : Chip} (h : c.icwStep = 0) :
    takeCommand free acked Config.eoiByte c = acked := by
  simp [takeCommand, h, Config.icw1, Config.selectIrr, Config.selectIsr, Config.eoiByte]

/-! ## An end-of-interrupt byte (R107, R108) -/

@[simp] theorem acknowledge_imr (free : Chip) (pick : Nat) (due : Half) (held : Byte) (c : Chip) :
    (acknowledge free pick due held c).imr = c.imr := rfl
@[simp] theorem acknowledge_icwStep (free : Chip) (pick : Nat) (due : Half) (held : Byte) (c : Chip) :
    (acknowledge free pick due held c).icwStep = c.icwStep := rfl
@[simp] theorem acknowledge_vbase (free : Chip) (pick : Nat) (due : Half) (held : Byte) (c : Chip) :
    (acknowledge free pick due held c).vbase = c.vbase := rfl
@[simp] theorem acknowledge_cascade (free : Chip) (pick : Nat) (due : Half) (held : Byte) (c : Chip) :
    (acknowledge free pick due held c).cascade = c.cascade := rfl
@[simp] theorem acknowledge_mode (free : Chip) (pick : Nat) (due : Half) (held : Byte) (c : Chip) :
    (acknowledge free pick due held c).mode = c.mode := rfl

/-- A byte other than zero has a bit set, and `pickBit` names one of those. -/
theorem pickBit_set {w : Nat} (pick : Nat) {v : BitVec w} (h : v ≠ 0) :
    pickBit pick v < w ∧ v.getLsbD (pickBit pick v) = true := by
  have hne : setBits v ≠ [] := by
    intro hn
    apply h
    apply BitVec.eq_of_getLsbD_eq
    intro k hk
    by_contra hb
    have hm : k ∈ setBits v := by
      simp only [setBits, List.mem_filter, List.mem_range]
      refine ⟨hk, ?_⟩
      simpa using hb
    rw [hn] at hm
    cases hm
  have hpos : 0 < (setBits v).length := List.length_pos_of_ne_nil hne
  have hlt : pick % (setBits v).length < (setBits v).length := Nat.mod_lt _ hpos
  have hm : pickBit pick v ∈ setBits v := by
    unfold pickBit
    rw [List.getD_eq_getElem _ _ hlt]
    exact List.getElem_mem hlt
  simpa [setBits] using hm

theorem mem_setBits {w : Nat} {v : BitVec w} {k : Nat} : k ∈ setBits v ↔ k < w ∧ v.getLsbD k = true := by
  simp [setBits]

/-- `oneOf` bit by bit: the one bit `pickBit` names, if there is one. -/
theorem getLsbD_oneOf {w : Nat} (pick : Nat) (v : BitVec w) (b : Nat) :
    (oneOf pick v).getLsbD b = (decide (v ≠ 0) && decide (b = pickBit pick v)) := by
  by_cases h : v = 0
  · simp [oneOf, h]
  · have hlt := (pickBit_set pick h).1
    simp only [oneOf, if_neg h, BitVec.getLsbD_shiftLeft, BitVec.getLsbD_one]
    by_cases hb : b = pickBit pick v
    · subst hb; simp [h, hlt, show 0 < w by omega, show v ≠ 0#w from h]
    · by_cases hl : b < pickBit pick v
      · simp [hb, hl]
      · simp [hb, show b - pickBit pick v ≠ 0 by omega]

/-- What `oneOf` names is set in the value it was picked from. -/
theorem getLsbD_of_oneOf {w : Nat} {pick : Nat} {v : BitVec w} {b : Nat} (h : (oneOf pick v).getLsbD b = true) :
    v.getLsbD b = true := by
  rw [getLsbD_oneOf] at h
  simp only [Bool.and_eq_true, decide_eq_true_eq] at h
  rw [h.2]; exact (pickBit_set pick h.1).2

/-- `oneOf` names one bit at most. -/
theorem oneOf_unique {w : Nat} {pick : Nat} {v : BitVec w} {b c : Nat} (hb : (oneOf pick v).getLsbD b = true)
    (hc : (oneOf pick v).getLsbD c = true) : b = c := by
  rw [getLsbD_oneOf] at hb hc
  simp only [Bool.and_eq_true, decide_eq_true_eq] at hb hc
  rw [hb.2, hc.2]

/-- Something can be ended wherever something is in service (R108). -/
theorem endable_ne_zero {held isr : Byte} (h : isr ≠ 0) : endable held isr ≠ 0 := by
  unfold endable; split_ifs with h0
  · exact h
  · exact h0

/-- Only a line in service can be ended. -/
theorem getLsbD_of_endable {held isr : Byte} {b : Nat} (h : (endable held isr).getLsbD b = true) :
    isr.getLsbD b = true := by
  unfold endable at h; split_ifs at h
  · exact h
  · rw [BitVec.getLsbD_and, Bool.and_eq_true] at h; exact h.1

/-- A byte that serves a taken interrupt: the ISR bit by bit (R108), less one line. -/
theorem acknowledge_isr_serves (free : Chip) (pick : Nat) {due : Half} {held : Byte} {c : Chip} (h : serves due c) (b : Nat) :
    (acknowledge free pick due held c).isr.getLsbD b =
      (c.isr.getLsbD b && !(oneOf pick (endable held c.isr)).getLsbD b) := by
  simp only [acknowledge, if_pos h, BitVec.getLsbD_and, BitVec.getLsbD_not]
  by_cases hb : b < 8
  · simp [hb]
  · simp [BitVec.getLsbD_of_ge c.isr b (by omega)]

/-- A held line stays in service if anything else is in service (R125). -/
theorem acknowledge_isr_held (free : Chip) (pick : Nat) {due : Half} {held : Byte} {c : Chip} (h : serves due c) {b : Nat}
    (hc : c.isr.getLsbD b = true) (hh : held.getLsbD b = true) (ho : c.isr &&& ~~~held ≠ 0) :
    (acknowledge free pick due held c).isr.getLsbD b = true := by
  rw [acknowledge_isr_serves free pick h, hc]
  by_contra hn
  have hp : (oneOf pick (endable held c.isr)).getLsbD b = true := by simpa using hn
  have := getLsbD_of_oneOf hp
  rw [endable, if_neg ho, BitVec.getLsbD_and, BitVec.getLsbD_not, hh] at this
  simp at this

/-! ## The line an end-of-interrupt byte is for (R105, R148) -/

theorem State.eoiLine_eoi {s : State} {l : Byte} (hb : s.busy = true) (hr : readCmd s.cmd = .ok (.eoi l)) :
    s.eoiLine = some l := by
  simp only [State.eoiLine, hb, if_true, hr]

theorem State.eoiLine_none {s : State} (h : s.busy = false ∨ ∀ l, readCmd s.cmd ≠ .ok (.eoi l)) : s.eoiLine = none := by
  unfold State.eoiLine
  split_ifs with hb
  · split
    · rename_i l hr
      rcases h with h | h
      · rw [h] at hb; cases hb
      · exact absurd hr (h l)
    · rfl
  · rfl

/-- It depends on `busy` and `cmd` alone. -/
theorem State.eoiLine_congr {s t : State} (hb : s.busy = t.busy) (hc : s.cmd = t.cmd) : s.eoiLine = t.eoiLine := by
  simp only [State.eoiLine, hb, hc]

@[simp] theorem State.environment_eoiLine (s : State) : s.environment.eoiLine = s.eoiLine :=
  State.eoiLine_congr (by simp) (by simp)

theorem State.dueLine_some {s : State} {l : Byte} (h : s.eoiLine = some l) (pick : Nat) (owed : Half) :
    s.dueLine pick owed = bitOf (lineOf l) := by
  simp only [State.dueLine, h]

theorem State.dueLine_none {s : State} (h : s.eoiLine = none) (pick : Nat) (owed : Half) :
    s.dueLine pick owed = oneOf pick owed := by
  simp only [State.dueLine, h]

/-! ## Priority, blocking and the lines taken (R123, R125, R126, R128, R148) -/

/-- No line is above itself, so a line in service blocks itself (R126). -/
@[simp] theorem above_self (side : Side) (k : Nat) : above side k k = false := by simp [above]

/-- Of two lines of a chip one is above the other (R128). -/
theorem above_total (side : Side) {k j : Nat} (h : k ≠ j) : above side k j = true ∨ above side j k = true := by
  simp [above]; omega

/-- And not both. -/
theorem above_asymm {side : Side} {k j : Nat} (h : above side k j = true) : above side j k = false := by
  simp [above] at h ⊢; omega

theorem above_trans {side : Side} {k j l : Nat} (h : above side k j = true) (h' : above side j l = true) :
    above side k l = true := by
  simp [above] at h h' ⊢; omega

theorem getLsbD_unblocked (side : Side) (v : Byte) {k : Nat} (hk : k < 8) :
    (unblocked side v).getLsbD k = true ↔ ∀ j, v.getLsbD j = true → above side k j = true := by
  simp only [unblocked, BitVec.getLsbD_ofFnLE, hk, dif_pos, List.all_eq_true, mem_setBits]
  constructor
  · intro h j hj
    exact h j ⟨BitVec.lt_of_getLsbD hj, hj⟩
  · exact fun h j hj => h j hj.2

/-- A master-side line taken is enabled, is not line 2, and is above all that blocks at the master. -/
theorem State.taken_master {s : State} {b : Nat} (h : (lo s.taken).getLsbD b = true) :
    b ≠ 2 ∧ s.master.imr.getLsbD b = false ∧ ∀ j, s.masterBlocking.getLsbD j = true → above .master b j = true := by
  have hb : b < 8 := BitVec.lt_of_getLsbD h
  simp only [State.taken, lo_pair] at h
  simp only [State.candidates, deliverable, State.unblockedLines, lo, Config.cascadeBit, BitVec.getLsbD_extractLsb', hb,
    BitVec.getLsbD_and, BitVec.getLsbD_not, pair, BitVec.getLsbD_append] at h
  simp [hb, show b < 16 by omega] at h
  refine ⟨?_, h.1.1.2, (getLsbD_unblocked _ _ hb).1 h.1.2⟩
  rintro rfl; simp at h

/-- A slave-side line taken is enabled with the cascade open, is above all that blocks at the slave, and line 2 is above
all that blocks at the master. -/
theorem State.taken_slave {s : State} {b : Nat} (h : (hi s.taken).getLsbD b = true) :
    s.slave.imr.getLsbD b = false ∧ s.master.imr.getLsbD 2 = false ∧
      (∀ j, s.slaveBlocking.getLsbD j = true → above .slave b j = true) ∧
      (∀ j, s.masterBlocking.getLsbD j = true → above .master 2 j = true) := by
  have hb : b < 8 := BitVec.lt_of_getLsbD h
  simp only [State.taken, hi_pair] at h
  have h := getLsbD_of_oneOf h
  simp only [State.candidates, deliverable, State.unblockedLines, hi, Config.cascadeBit, BitVec.getLsbD_extractLsb', hb,
    BitVec.getLsbD_and, BitVec.getLsbD_not, pair, BitVec.getLsbD_append] at h
  simp [hb, show 8 + b < 16 by omega] at h
  obtain ⟨⟨⟨-, h1⟩, h2⟩, -⟩ := h
  split at h1
  · simp at h1
  · rename_i hm
    split at h2
    · rename_i hu
      refine ⟨by simpa [hb] using h1, by simpa using hm, (getLsbD_unblocked _ _ hb).1 h2, (getLsbD_unblocked _ _ (by decide)).1 hu⟩
    · simp at h2

/-- One slave-side line at most is taken in one move. -/
theorem State.taken_slave_unique {s : State} {b c : Nat} (hb : (hi s.taken).getLsbD b = true)
    (hc : (hi s.taken).getLsbD c = true) : b = c := by
  simp only [State.taken, hi_pair] at hb hc
  exact oneOf_unique hb hc

/-- What the environment does to the two ISRs once PICSEQ is Ready. -/
theorem State.environment_isr {s : State} (hc : s.par.chipsPresent = true) (hp : s.phase = .ready) :
    s.environment.master.isr = s.master.isr ||| masterPart s.taken ∧
      s.environment.slave.isr = s.slave.isr ||| hi s.taken := by
  simp [State.environment, hc, hp]

/-- And to the interrupts that wait for their EOI (R148). -/
theorem State.environment_owed {s : State} (hc : s.par.chipsPresent = true) (hp : s.phase = .ready) :
    s.environment.master.owed = s.master.owed ||| s.taken ∧
      s.environment.slave.owed = s.slave.owed ||| pair (hi s.taken) 0 := by
  simp [State.environment, hc, hp]

end Sys2Proof.Machine
end

