-- ==== Sys2Proof/Laws/PerInstr.lean ====
section
/-!
SUPPORT. One law per instruction: the encoded word of every well-formed instruction is a word of its row of
spec/opcode_table.json, `w AND mask == match` (spec/30_encoding.md R61, R65), with the row's mask and match copied from
the table. The table prints the ports of `ICW_PORTS = split`.
-/
namespace Sys2Proof.Laws

/-- A row of the table: its format's width, its mask and its match. -/
structure Row where
  bits : Nat
  mask : Nat
  pattern : Nat
  deriving DecidableEq, Repr

/-- The row of each constructor, from spec/opcode_table.json. -/
def row : Instr → Row
  | .init => ⟨16, 0xFFFF, 0x0100⟩
  | .enable _ => ⟨16, 0xFFF0, 0x0200⟩
  | .disable _ => ⟨16, 0xFFF0, 0x0300⟩
  | .eoi _ => ⟨16, 0xFFF0, 0x0400⟩
  | .rdirr => ⟨16, 0xFFFF, 0x0500⟩
  | .rdisr => ⟨16, 0xFFFF, 0x0600⟩
  | .icw1M => ⟨24, 0xFFFFFF, 0x002011⟩
  | .icw2M => ⟨24, 0xFFFFFF, 0x002120⟩
  | .icw3M => ⟨24, 0xFFFFFF, 0x002104⟩
  | .icw4M => ⟨24, 0xFFFFFF, 0x002101⟩
  | .icw1S => ⟨24, 0xFFFFFF, 0x00A011⟩
  | .icw2S => ⟨24, 0xFFFFFF, 0x00A128⟩
  | .icw3S => ⟨24, 0xFFFFFF, 0x00A102⟩
  | .icw4S => ⟨24, 0xFFFFFF, 0x00A101⟩
  | .maskM _ => ⟨24, 0xFFFF00, 0x002100⟩
  | .maskS _ => ⟨24, 0xFFFF00, 0x00A100⟩
  | .eoiS => ⟨24, 0xFFFFFF, 0x00A020⟩
  | .eoiM => ⟨24, 0xFFFFFF, 0x002020⟩
  | .selIrr => ⟨24, 0xFFFFFF, 0x00200A⟩
  | .selIsr => ⟨24, 0xFFFFFF, 0x00200B⟩
  | .rdM => ⟨16, 0xFFFF, 0x0020⟩
  | .rdS => ⟨16, 0xFFFF, 0x00A0⟩

/-- The width of a code word. -/
def CodeWord.bits : CodeWord → Nat
  | .cmd16 _ => 16
  | .portw _ => 24
  | .portr _ => 16

/-- A code word as a number, bit 0 least significant. -/
def CodeWord.value : CodeWord → Nat
  | .cmd16 w => w.toNat
  | .portw w => w.toNat
  | .portr w => w.toNat

/-- The encoded word has the row's width and carries the row's fixed bits. -/
def RowMatch.Statement (i : Instr) : Prop :=
  i.wf = true →
    CodeWord.bits (encode .split i) = (row i).bits ∧
    CodeWord.value (encode .split i) &&& (row i).mask = (row i).pattern

theorem RowMatch.init : RowMatch.Statement .init := fun _ => by decide

/-- The three line rows have one shape: the operation code above a byte below 16. -/
theorem line_word_matches (op : Byte) (l : Byte) (h : lineInRange l = true) :
    (cmdWord op l).toNat &&& 0xFFF0 = op.toNat * 256 := by
  have hl : l.toNat < 16 := by simpa [lineInRange] using h
  have hop := op.isLt
  apply Nat.eq_of_testBit_eq
  intro k
  simp only [cmdWord, BitVec.toNat_append, Nat.testBit_and, Nat.testBit_or, Nat.testBit_shiftLeft]
  rw [show op.toNat * 256 = op.toNat <<< 8 from by rw [Nat.shiftLeft_eq], Nat.testBit_shiftLeft]
  by_cases h8 : 8 ≤ k
  · have hz : l.toNat.testBit k = false :=
      Nat.testBit_lt_two_pow (lt_of_lt_of_le hl (Nat.pow_le_pow_right (n := 2) (by norm_num) (by omega : 4 ≤ k)))
    by_cases h16 : k < 16
    · have hm : Nat.testBit 0xFFF0 k = true := by interval_cases k <;> decide
      simp [h8, hz, hm]
    · have hz' : op.toNat.testBit (k - 8) = false :=
        Nat.testBit_lt_two_pow (lt_of_lt_of_le hop (Nat.pow_le_pow_right (n := 2) (by norm_num) (by omega : 8 ≤ k - 8)))
      simp [hz, hz']
  · by_cases h4 : k < 4
    · have hm : Nat.testBit 0xFFF0 k = false := by interval_cases k <;> decide
      simp [h8, hm]
    · have hz : l.toNat.testBit k = false :=
        Nat.testBit_lt_two_pow (lt_of_lt_of_le hl (Nat.pow_le_pow_right (n := 2) (by norm_num) (by omega : 4 ≤ k)))
      simp [h8, hz]

theorem RowMatch.enable (l : Byte) : RowMatch.Statement (.enable l) :=
  fun h => ⟨rfl, line_word_matches 0x02 l h⟩

theorem RowMatch.disable (l : Byte) : RowMatch.Statement (.disable l) :=
  fun h => ⟨rfl, line_word_matches 0x03 l h⟩

theorem RowMatch.eoi (l : Byte) : RowMatch.Statement (.eoi l) :=
  fun h => ⟨rfl, line_word_matches 0x04 l h⟩

theorem RowMatch.rdirr : RowMatch.Statement .rdirr := fun _ => by decide
theorem RowMatch.rdisr : RowMatch.Statement .rdisr := fun _ => by decide
theorem RowMatch.icw1M : RowMatch.Statement .icw1M := fun _ => by decide
theorem RowMatch.icw2M : RowMatch.Statement .icw2M := fun _ => by decide
theorem RowMatch.icw3M : RowMatch.Statement .icw3M := fun _ => by decide
theorem RowMatch.icw4M : RowMatch.Statement .icw4M := fun _ => by decide
theorem RowMatch.icw1S : RowMatch.Statement .icw1S := fun _ => by decide
theorem RowMatch.icw2S : RowMatch.Statement .icw2S := fun _ => by decide
theorem RowMatch.icw3S : RowMatch.Statement .icw3S := fun _ => by decide
theorem RowMatch.icw4S : RowMatch.Statement .icw4S := fun _ => by decide

/-- The two mask rows have one shape: a port above any byte. -/
theorem mask_word_matches (p : Port) (v : Byte) (hp : p.toNat * 256 &&& 0xFFFF00 = p.toNat * 256) :
    (p ++ v).toNat &&& 0xFFFF00 = p.toNat * 256 := by
  have hv := v.isLt
  rw [← hp]
  apply Nat.eq_of_testBit_eq
  intro k
  simp only [BitVec.toNat_append, Nat.testBit_and, Nat.testBit_or, Nat.testBit_shiftLeft]
  rw [show p.toNat * 256 = p.toNat <<< 8 from by rw [Nat.shiftLeft_eq], Nat.testBit_shiftLeft]
  by_cases h8 : 8 ≤ k
  · have hz : v.toNat.testBit k = false :=
      Nat.testBit_lt_two_pow (lt_of_lt_of_le hv (Nat.pow_le_pow_right (n := 2) (by norm_num) (by omega : 8 ≤ k)))
    simp [hz]
  · have hm : Nat.testBit 0xFFFF00 k = false := by
      have : k < 8 := by omega
      interval_cases k <;> decide
    simp [hm]

theorem RowMatch.maskM (v : Byte) : RowMatch.Statement (.maskM v) :=
  fun _ => ⟨rfl, mask_word_matches 0x0021 v (by decide)⟩

theorem RowMatch.maskS (v : Byte) : RowMatch.Statement (.maskS v) :=
  fun _ => ⟨rfl, mask_word_matches 0x00A1 v (by decide)⟩

theorem RowMatch.eoiS : RowMatch.Statement .eoiS := fun _ => by decide
theorem RowMatch.eoiM : RowMatch.Statement .eoiM := fun _ => by decide
theorem RowMatch.selIrr : RowMatch.Statement .selIrr := fun _ => by decide
theorem RowMatch.selIsr : RowMatch.Statement .selIsr := fun _ => by decide
theorem RowMatch.rdM : RowMatch.Statement .rdM := fun _ => by decide
theorem RowMatch.rdS : RowMatch.Statement .rdS := fun _ => by decide

end Sys2Proof.Laws
end

