-- ==== Sys2Proof/Laws/Step.lean ====
section
/-!
SUPPORT. What a step can do, said once (`step_cases`), and what `exec` is for each of the two kinds of instruction: a
command is `State.perform`, a port transaction is `State.emit` (spec/10_state.md R16, spec/30_encoding.md R63).
-/
namespace Sys2Proof.Machine

/-! ## `exec` -/

/-- A command: admission, and at the atomic grain everything it does. -/
theorem exec_command (i : Instr) (s : State) (h : i.isCommand = true) :
    exec i s = .next (s.perform i (State.stepZero i)) := by
  cases i <;> first | rfl | cases h

/-- A port transaction. -/
theorem exec_transaction (i : Instr) (s : State) (h : i.isCommand = false) : exec i s = .next (s.emit i) := by
  cases i <;> first | rfl | cases h

/-- A command is no port transaction. -/
theorem portOp_eq_none_iff (ports : IcwPorts) (i : Instr) : portOp ports i = none ↔ i.isCommand = true := by
  cases i <;> simp [portOp, Instr.isCommand]

theorem State.emit_write {s : State} {i : Instr} {p : Port} {v : Byte}
    (h : portOp s.par.icwPorts i = some (.write p v)) : s.emit i = s.portWrite p v := by
  simp [State.emit, h]

theorem State.emit_read {s : State} {i : Instr} {p : Port}
    (h : portOp s.par.icwPorts i = some (.read p)) : s.emit i = s.portRead p := by
  simp [State.emit, h]

theorem State.emit_command {s : State} {i : Instr} (h : i.isCommand = true) : s.emit i = s := by
  simp [State.emit, (portOp_eq_none_iff s.par.icwPorts i).2 h]

/-! ## `State.perform` -/

theorem State.perform_turnedAway {s : State} {i : Instr} {r : Reject} (z : State → State)
    (h : s.turnedAway i = some r) : s.perform i z = s.refuse r := by
  simp [State.perform, h]

theorem State.perform_micro {s : State} {i : Instr} (z : State → State) (h : s.turnedAway i = none)
    (hg : s.par.grain = .microStep) : s.perform i z = s.accept (encodeCmd i) := by
  simp [State.perform, h, hg]

theorem State.perform_atomic {s : State} {i : Instr} (z : State → State) (h : s.turnedAway i = none)
    (hg : s.par.grain = .atomic) :
    s.perform i z = State.runTxns (z (s.accept (encodeCmd i))).txns (z (s.accept (encodeCmd i))) := by
  simp [State.perform, h, hg]

/-- A busy block turns every command away (R63 check 1). -/
theorem State.turnedAway_busy {s : State} {i : Instr} (h : s.busy = true) : s.turnedAway i = some .reentry := by
  simp [State.turnedAway, h]

/-! ## `State.retire` and `State.runTxns` -/

theorem State.retire_cons {s : State} {i : Instr} {rest : List Instr} (h : s.txns = i :: rest) :
    s.retire = s.advance := by
  simp [State.retire, h]

theorem State.retire_nil {s : State} (h : s.txns = []) : s.retire = s.complete.release := by
  simp [State.retire, h]

/-- INIT's end (R80, R85). -/
theorem State.complete_init {s : State} (h : readCmd s.cmd = .ok .init) : s.complete = s.setPhase .ready := by
  simp only [State.complete, h]

/-- RDIRR's and RDISR's end (R112, R115). -/
theorem State.complete_read {s : State} {i : Instr} (h : readCmd s.cmd = .ok i) (hi : i = .rdirr ∨ i = .rdisr) :
    s.complete = s.setResult (pair s.readS s.readM) := by
  rcases hi with rfl | rfl <;> simp only [State.complete, h]

/-- Every other command's end adds nothing. -/
theorem State.complete_other {s : State}
    (h : ∀ i, readCmd s.cmd = .ok i → i ≠ .init ∧ i ≠ .rdirr ∧ i ≠ .rdisr) : s.complete = s := by
  unfold State.complete
  split <;> rename_i h' <;> first | rfl | (have := h _ h'; simp at this)

@[simp] theorem State.runTxns_nil (s : State) : State.runTxns [] s = s := rfl

/-- The last transaction of a list ends the command. -/
theorem State.runTxns_last (i : Instr) (s : State) :
    State.runTxns [i] s = (State.emit i (s.setTxns [])).complete.release := by
  simp [State.runTxns, State.retire_nil]

/-- A transaction that is not the last: `step` advances. -/
theorem State.runTxns_more (i j : Instr) (rest : List Instr) (s : State) :
    State.runTxns (i :: j :: rest) s =
      State.runTxns (j :: rest) (State.emit i (s.setTxns (j :: rest))).advance := by
  rw [State.runTxns, State.retire_cons (i := j) (rest := rest) (by simp)]

/-! ## `step` -/

/-- Everything a step that answers a next state can have done. -/
theorem step_cases {s t : State} (h : step s = .next t) :
    -- a submission that did not wait is refused
    (∃ rest, s.busy = true ∧ s.intruder = some rest ∧ t = State.refuse .reentry (s.setStream rest)) ∨
    -- nothing to do
    (s.busy = false ∧ s.stream = [] ∧ t = s) ∨
    -- a submitted word that is no command
    (∃ a rest r, s.busy = false ∧ s.stream = a :: rest ∧ readCmd a.word = .error r ∧
      t = State.refuse r (s.setStream rest)) ∨
    -- a submitted command
    (∃ a rest i, s.busy = false ∧ s.stream = a :: rest ∧ readCmd a.word = .ok i ∧
      exec i (s.setStream rest) = .next t) ∨
    -- the internal step 0
    (∃ i, s.busy = true ∧ s.intruder = none ∧ s.step = 0 ∧ readCmd s.cmd = .ok i ∧
      t = State.stepZero i (s.setStream (tick s.stream))) ∨
    -- a transaction
    (∃ i rest u, s.busy = true ∧ s.intruder = none ∧ s.step ≠ 0 ∧ s.txns = i :: rest ∧
      exec i ((s.setStream (tick s.stream)).setTxns rest) = .next u ∧ t = u.retire) := by
  unfold step State.fetch at h
  cases hi : s.intruder with
  | some rest =>
    have hb : s.busy = true := by
      by_contra hb
      simp [State.intruder, hb] at hi
    rw [hi] at h
    exact .inl ⟨rest, hb, rfl, by simpa using h.symm⟩
  | none =>
    simp only [hi] at h
    by_cases hb : s.busy = true
    · rw [if_pos hb, State.fetchMicroStep] at h
      by_cases h0 : s.step = 0
      · rw [if_pos h0] at h
        cases hr : readCmd s.cmd with
        | error r => simp only [hr] at h; cases h
        | ok i =>
          simp only [hr] at h
          cases h
          exact .inr (.inr (.inr (.inr (.inl ⟨i, hb, rfl, h0, rfl, rfl⟩))))
      · rw [if_neg h0] at h
        cases hl : s.txns with
        | nil => simp only [hl] at h; cases h
        | cons i rest =>
          simp only [hl] at h
          cases hx : exec i ((s.setStream (tick s.stream)).setTxns rest) with
          | next u =>
            simp only [hx] at h
            cases h
            exact .inr (.inr (.inr (.inr (.inr ⟨i, rest, u, hb, rfl, h0, rfl, hx, rfl⟩))))
          | fault f => simp only [hx] at h; cases h
          | refused r => simp only [hx] at h; cases h
    · have hb' : s.busy = false := by simpa using hb
      rw [if_neg hb, State.fetchCommand] at h
      cases hs : s.stream with
      | nil => simp only [hs] at h; cases h; exact .inr (.inl ⟨hb', rfl, rfl⟩)
      | cons a rest =>
        simp only [hs] at h
        cases hr : readCmd a.word with
        | error r => simp only [hr] at h; cases h; exact .inr (.inr (.inl ⟨a, rest, r, hb', rfl, hr, rfl⟩))
        | ok i => simp only [hr] at h; exact .inr (.inr (.inr (.inl ⟨a, rest, i, hb', rfl, hr, h⟩)))

end Sys2Proof.Machine
end

