-- ==== Sys2Proof/Laws/Run.lean ====
section
/-!
SUPPORT. What the running of a whole transaction list comes to (spec/10_state.md R16, spec/20_memory.md R51): the end
of a command, and the events a list of port writes adds, in its order. Stated by induction on the list, so that no
proof has to unfold a command of ten transactions.
-/
namespace Sys2Proof.Machine

/-- The event a port-write row adds to the trace. -/
def writeEvent (ports : IcwPorts) (i : Instr) : Option PortEvent :=
  match portOp ports i with
  | some (.write p v) => some (.w p v)
  | _ => none

/-- A list of port writes only. -/
def AllWrites (ports : IcwPorts) (l : List Instr) : Prop := ∀ i ∈ l, (writeEvent ports i).isSome = true

/-- A port-write row's own effect on what is not a chip. -/
theorem State.emit_of_write {s : State} {i : Instr} (h : (writeEvent s.par.icwPorts i).isSome = true) :
    (s.emit i).trace = s.trace ++ (writeEvent s.par.icwPorts i).toList ∧ (s.emit i).draws = s.draws + 1 ∧
      (s.emit i).readM = s.readM ∧ (s.emit i).readS = s.readS ∧ (s.emit i).answers = s.answers := by
  unfold writeEvent at h ⊢
  split at h
  · rename_i p v hp
    rw [State.emit_write hp]
    simp [hp]
  · cases h

/-- A command ends with its list: idle, nothing left (R16). -/
theorem State.runTxns_ends (l : List Instr) (s : State) (h : l ≠ []) :
    (State.runTxns l s).busy = false ∧ (State.runTxns l s).step = 0 ∧ (State.runTxns l s).txns = [] := by
  induction l generalizing s with
  | nil => exact absurd rfl h
  | cons i rest ih =>
    cases rest with
    | nil => simp [State.runTxns_last]
    | cons j rest => rw [State.runTxns_more]; exact ih _ (by simp)

/-- `phase` after a list: INIT's end sets it (R80, R85). -/
theorem State.runTxns_phase (l : List Instr) (s : State) (h : l ≠ []) :
    (State.runTxns l s).phase = if readCmd s.cmd = .ok .init then .ready else s.phase := by
  induction l generalizing s with
  | nil => exact absurd rfl h
  | cons i rest ih =>
    cases rest with
    | nil =>
      rw [State.runTxns_last]
      simp only [State.release_phase, State.complete, State.emit_cmd]
      split <;> simp_all
    | cons j rest => rw [State.runTxns_more, ih _ (by simp)]; simp

/-- `result` after a list of a command that is no register read (R107, R112). -/
theorem State.runTxns_result (l : List Instr) (s : State)
    (h : readCmd s.cmd ≠ .ok .rdirr ∧ readCmd s.cmd ≠ .ok .rdisr) : (State.runTxns l s).result = s.result := by
  induction l generalizing s with
  | nil => rfl
  | cons i rest ih =>
    cases rest with
    | nil =>
      rw [State.runTxns_last]
      simp only [State.release_result, State.complete, State.emit_cmd]
      split <;> rename_i hr
      · simp
      · exact absurd hr h.1
      · exact absurd hr h.2
      · simp
    | cons j rest => rw [State.runTxns_more, ih _ (by simpa using h)]; simp

/-- A list of port writes adds its events in its order, one draw each, and reads nothing (R42, R51). -/
theorem State.runTxns_writes (l : List Instr) (s : State) (h : AllWrites s.par.icwPorts l) :
    (State.runTxns l s).trace = s.trace ++ l.filterMap (writeEvent s.par.icwPorts) ∧
      (State.runTxns l s).draws = s.draws + l.length ∧ (State.runTxns l s).readM = s.readM ∧
      (State.runTxns l s).readS = s.readS ∧ (State.runTxns l s).answers = s.answers := by
  induction l generalizing s with
  | nil => simp [State.runTxns]
  | cons i rest ih =>
    have he := State.emit_of_write (s := s.setTxns rest) (h i (by simp))
    have hr := ih (State.retire (State.emit i (s.setTxns rest)))
      (by simpa using (show AllWrites s.par.icwPorts rest from fun j hj => h j (by simp [hj])))
    have hi := h i (by simp)
    obtain ⟨e, hw⟩ := Option.isSome_iff_exists.1 hi
    simp only [State.retire_trace, State.retire_draws, State.retire_readM, State.retire_readS, State.retire_answers,
      State.retire_par, State.emit_par] at hr
    rw [State.runTxns]
    refine ⟨?_, ?_, ?_, ?_, ?_⟩
    · rw [hr.1, he.1]; simp [hw]
    · rw [hr.2.1, he.2.1]; simp; omega
    · rw [hr.2.2.1, he.2.2.1]; rfl
    · rw [hr.2.2.2.1, he.2.2.2.1]; rfl
    · rw [hr.2.2.2.2, he.2.2.2.2]; rfl

end Sys2Proof.Machine
end

