-- ==== Sys2Proof/Tests/Slice0.lean ====
section
/-!
SUPPORT. Tests: words written out from the encodings of spec/30_encoding.md, one-step checks against the vectors of
spec/95_test_vectors.md (named in each comment), and for every obligation with hypotheses a concrete state that meets
them. No expected value comes from a run of the model.
-/
namespace Sys2Proof.Tests

open Sys2Proof Sys2Proof.Machine Sys2Proof.Claims

/-! ## Small states -/

/-- Idle and Ready, every parameter at its default. -/
def ready : State := { State.reset with phase := .ready }

/-- The same with a whole command as one step. -/
def atomic : State := { ready with par := { Config.defaults with grain := .atomic } }

/-- The same with a given mask. -/
def masked (m : Half) : State := { atomic with irqMask := m }

/-- The same with canned read responses. -/
def canned (l : List Byte) : State := { atomic with answers := l }

/-- Before INIT, a whole command as one step. -/
def fresh : State := State.resetWith { Config.defaults with grain := .atomic }

/-- A line operand of 16 or more taken modulo 16. -/
def mod16 : State := { ready with par := { Config.defaults with grain := .atomic, lineOor := .mod16 } }

/-- Chips that hold what the mask says, outside any sequence. -/
def mirrored : State :=
  { atomic with
    irqMask := 0xFDF9
    master := { chipAtReset with imr := 0xF9 }
    slave := { chipAtReset with imr := 0xFD } }

/-- Busy with ENABLE 9, one mask write done. -/
def midEnable : State :=
  { ready with irqMask := 0xFDFB, busy := true, cmd := 0x0209, step := 2, txns := [.maskS 0xFD] }

/-- Busy with ENABLE 9, before its step 0. -/
def beforeEnable : State := { ready with busy := true, cmd := 0x0209 }

/-- The next state's field, or none where the machine stops. -/
def got {α : Type} (o : Host.Outcome State Fault Refusal) (f : State → α) : Option α :=
  match o with
  | .next t => some (f t)
  | _ => none

/-- The trace of INIT, as spec/95_test_vectors.md abbreviates it: T_INIT. -/
def tInit : List PortEvent :=
  [.w 0x0020 0x11, .w 0x0021 0x20, .w 0x0021 0x04, .w 0x0021 0x01, .w 0x00A0 0x11, .w 0x00A1 0x28, .w 0x00A1 0x02,
   .w 0x00A1 0x01, .w 0x0021 0xFB, .w 0x00A1 0xFF]

/-! ## Well-formedness: the one check, and a term it refuses -/

theorem test_wf_line_15 : (Instr.enable 15).wf = true := by decide
theorem test_wf_refuses_enable_16 : (Instr.enable 16).wf = false := by decide
theorem test_wf_refuses_disable_255 : (Instr.disable 0xFF).wf = false := by decide
theorem test_wf_refuses_eoi_16 : (Instr.eoi 0x10).wf = false := by decide

/-! ## Decoding: words written bit by bit from R60, R61 (`OP`, `LZ`, `LINE`) and R65, R66 (port, byte) -/

theorem test_decode_init : decodeTableWord 16 0b00000001_0000_0000 = some .init := by decide
theorem test_decode_enable_9 : decodeTableWord 16 0b00000010_0000_1001 = some (.enable 9) := by decide
theorem test_decode_disable_15 : decodeTableWord 16 0b00000011_0000_1111 = some (.disable 15) := by decide
theorem test_decode_eoi_8 : decodeTableWord 16 0b00000100_0000_1000 = some (.eoi 8) := by decide
theorem test_decode_rdirr : decodeTableWord 16 0b00000101_0000_0000 = some .rdirr := by decide
theorem test_decode_rdisr : decodeTableWord 16 0b00000110_0000_0000 = some .rdisr := by decide
theorem test_decode_icw1M : decodeTableWord 24 0b0000000000100000_00010001 = some .icw1M := by decide
theorem test_decode_icw2M : decodeTableWord 24 0b0000000000100001_00100000 = some .icw2M := by decide
theorem test_decode_icw3M : decodeTableWord 24 0b0000000000100001_00000100 = some .icw3M := by decide
theorem test_decode_icw4M : decodeTableWord 24 0b0000000000100001_00000001 = some .icw4M := by decide
theorem test_decode_icw1S : decodeTableWord 24 0b0000000010100000_00010001 = some .icw1S := by decide
theorem test_decode_icw2S : decodeTableWord 24 0b0000000010100001_00101000 = some .icw2S := by decide
theorem test_decode_icw3S : decodeTableWord 24 0b0000000010100001_00000010 = some .icw3S := by decide
theorem test_decode_icw4S : decodeTableWord 24 0b0000000010100001_00000001 = some .icw4S := by decide
theorem test_decode_maskM : decodeTableWord 24 0b0000000000100001_11111011 = some (.maskM 0xFB) := by decide
theorem test_decode_maskS : decodeTableWord 24 0b0000000010100001_11111111 = some (.maskS 0xFF) := by decide
theorem test_decode_eoiS : decodeTableWord 24 0b0000000010100000_00100000 = some .eoiS := by decide
theorem test_decode_eoiM : decodeTableWord 24 0b0000000000100000_00100000 = some .eoiM := by decide
theorem test_decode_selIrr : decodeTableWord 24 0b0000000000100000_00001010 = some .selIrr := by decide
theorem test_decode_selIsr : decodeTableWord 24 0b0000000000100000_00001011 = some .selIsr := by decide
theorem test_decode_rdM : decodeTableWord 16 0b0000000000100000 = some .rdM := by decide
theorem test_decode_rdS : decodeTableWord 16 0b0000000010100000 = some .rdS := by decide

/-- A9 to A11 and A6: rejected by name. -/
theorem test_decode_rejects :
    decodeCmd 0x0000 = .error .reservedOp ∧ decodeCmd 0x0700 = .error .reservedOp ∧
    decodeCmd 0xFFFF = .error .reservedOp ∧ decodeCmd 0x0101 = .error .reservedOperand ∧
    decodeCmd 0x0501 = .error .reservedOperand ∧ decodeCmd 0x0605 = .error .reservedOperand ∧
    decodeCmd 0x0210 = .error .lineOutOfRange := by decide

/-- A port word of no row: the slave's command port takes no selector (R114). -/
theorem test_decode_not_emitted : decode .split false (.portw 0x00A00A) = .error .notEmitted := by decide

/-- M20: the byte 0x04 at the master's data port is a mask byte or ICW3 by its position (R67). -/
theorem test_decode_by_position :
    decode .split false (.portw 0x002104) = .ok (.maskM 0x04) ∧ decode .split true (.portw 0x002104) = .ok .icw3M := by
  decide

/-! ## INIT -/

/-- I1 and S1. -/
theorem test_init_trace : got (exec .init fresh) (fun t => (t.trace, t.irqMask)) = some (tInit, 0xFFFB) := by decide

/-- I6: the chips' view. -/
theorem test_init_chips :
    got (exec .init fresh) (fun t => (t.master.imr, t.slave.imr, t.master.vbase, t.slave.vbase, t.slave.icwStep)) =
      some (0xFB, 0xFF, 0x20, 0x28, 0) := by decide

/-! ## ENABLE and DISABLE -/

/-- M5. -/
theorem test_enable_9 : got (exec (.enable 9) (masked 0xFFFF)) (fun t => (t.irqMask, t.trace)) =
    some (0xFDFB, [.w 0x0021 0xFB, .w 0x00A1 0xFD]) := by decide

/-- M2: a master-side line leaves bit 2 alone. -/
theorem test_enable_7 : got (exec (.enable 7) (masked 0xFFFB)) (fun t => (t.irqMask, t.trace)) =
    some (0xFF7B, [.w 0x0021 0x7B, .w 0x00A1 0xFF]) := by decide

/-- M13: the last slave line. -/
theorem test_disable_9 : got (exec (.disable 9) (masked 0xFDF9)) (fun t => (t.irqMask, t.trace)) =
    some (0xFFFD, [.w 0x0021 0xFD, .w 0x00A1 0xFF]) := by decide

/-- M16: line 2 literally, INV-A broken. -/
theorem test_disable_2 : got (exec (.disable 2) (masked 0xFEFB)) (fun t => (t.irqMask, t.trace)) =
    some (0xFEFF, [.w 0x0021 0xFF, .w 0x00A1 0xFE]) := by decide

/-! ## EOI -/

/-- E4: the slave first. -/
theorem test_eoi_8 : got (exec (.eoi 8) (masked 0xFFFB)) (fun t => (t.irqMask, t.trace)) =
    some (0xFFFB, [.w 0x00A0 0x20, .w 0x0020 0x20]) := by decide

/-- E3: the boundary below 8. -/
theorem test_eoi_7 : got (exec (.eoi 7) atomic) (fun t => t.trace) = some [.w 0x0020 0x20] := by decide

/-! ## RDIRR and RDISR -/

/-- D3v. -/
theorem test_rdirr : got (exec .rdirr (canned [0x80, 0x01])) (fun t => (t.result, t.trace)) =
    some (0x0180, [.w 0x0020 0x0A, .w 0x0020 0x0A, .r 0x0020 0x80, .r 0x00A0 0x01]) := by decide

/-- D4v. -/
theorem test_rdisr : got (exec .rdisr (canned [0x04, 0x10])) (fun t => (t.result, t.trace)) =
    some (0x1004, [.w 0x0020 0x0B, .w 0x0020 0x0B, .r 0x0020 0x04, .r 0x00A0 0x10]) := by decide

/-- S6, `slave_first`: the reads swap places, the result does not. -/
theorem test_rdisr_slave_first :
    got (exec .rdisr { canned [0x10, 0x05] with par := { Config.defaults with grain := .atomic, readOrder := .slaveFirst } })
      (fun t => (t.result, t.trace)) =
    some (0x1005, [.w 0x0020 0x0B, .w 0x0020 0x0B, .r 0x00A0 0x10, .r 0x0020 0x05]) := by decide

/-! ## The port-transaction rows: port and byte of R66, and the chip of R19 to R23 -/

theorem test_icw1M : got (exec .icw1M ready) (fun t => (t.trace, t.master.icwStep)) = some ([.w 0x0020 0x11], 3) := by decide
theorem test_icw2M : got (exec .icw2M { ready with master := { chipAtReset with icwStep := 3 } })
    (fun t => (t.trace, t.master.vbase, t.master.icwStep)) = some ([.w 0x0021 0x20], 0x20, 2) := by decide
theorem test_icw3M : got (exec .icw3M { ready with master := { chipAtReset with icwStep := 2 } })
    (fun t => (t.trace, t.master.cascade, t.master.icwStep)) = some ([.w 0x0021 0x04], 0x04, 1) := by decide
theorem test_icw4M : got (exec .icw4M { ready with master := { chipAtReset with icwStep := 1 } })
    (fun t => (t.trace, t.master.mode, t.master.icwStep)) = some ([.w 0x0021 0x01], 0x01, 0) := by decide
theorem test_icw1S : got (exec .icw1S ready) (fun t => (t.trace, t.slave.icwStep)) = some ([.w 0x00A0 0x11], 3) := by decide
theorem test_icw2S : got (exec .icw2S { ready with slave := { chipAtReset with icwStep := 3 } })
    (fun t => (t.trace, t.slave.vbase, t.slave.icwStep)) = some ([.w 0x00A1 0x28], 0x28, 2) := by decide
theorem test_icw3S : got (exec .icw3S { ready with slave := { chipAtReset with icwStep := 2 } })
    (fun t => (t.trace, t.slave.cascade, t.slave.icwStep)) = some ([.w 0x00A1 0x02], 0x02, 1) := by decide
theorem test_icw4S : got (exec .icw4S { ready with slave := { chipAtReset with icwStep := 1 } })
    (fun t => (t.trace, t.slave.mode, t.slave.icwStep)) = some ([.w 0x00A1 0x01], 0x01, 0) := by decide
theorem test_icw2M_all_command : got (exec .icw2M { ready with par := { Config.defaults with icwPorts := .allCommand } })
    (fun t => t.trace) = some [.w 0x0020 0x20] := by decide
theorem test_maskM : got (exec (.maskM 0x7B) ready) (fun t => (t.trace, t.master.imr, t.slave.imr)) =
    some ([.w 0x0021 0x7B], 0x7B, 0x00) := by decide
theorem test_maskS : got (exec (.maskS 0xFD) ready) (fun t => (t.trace, t.master.imr, t.slave.imr)) =
    some ([.w 0x00A1 0xFD], 0x00, 0xFD) := by decide
theorem test_eoiS : got (exec .eoiS mirrored) (fun t => (t.trace, t.slave.imr)) = some ([.w 0x00A0 0x20], 0xFD) := by decide
theorem test_eoiM : got (exec .eoiM mirrored) (fun t => (t.trace, t.master.imr)) = some ([.w 0x0020 0x20], 0xF9) := by decide
theorem test_selIrr : got (exec .selIrr ready) (fun t => (t.trace, t.master.rsel)) = some ([.w 0x0020 0x0A], .irr) := by decide
theorem test_selIsr : got (exec .selIsr ready) (fun t => (t.trace, t.master.rsel)) = some ([.w 0x0020 0x0B], .isr) := by decide
theorem test_rdM : got (exec .rdM (canned [0x05])) (fun t => (t.trace, t.readM, t.answers)) =
    some ([.r 0x0020 0x05], 0x05, []) := by decide
theorem test_rdS : got (exec .rdS (canned [0x10])) (fun t => (t.trace, t.readS, t.readM)) =
    some ([.r 0x00A0 0x10], 0x10, 0x00) := by decide

/-- U3, D17: with chips absent a written byte changes no chip. -/
theorem test_absent_chips :
    got (exec (.maskM 0x7B) { ready with par := { Config.defaults with chipsPresent := false } })
      (fun t => (t.trace, t.master, t.slave)) = some ([.w 0x0021 0x7B], chipAtReset, chipAtReset) := by decide

/-- One service bit of 0b10100000 is cleared, whichever is picked: bit 5 for an even pick, bit 7 for an odd one. -/
theorem test_pickBit : pickBit 4 (0b10100000 : Byte) = 5 ∧ pickBit 3 (0b10100000 : Byte) = 7 := by decide

/-- R108: with lines 1 and 3 in service the byte for line 3 clears one of the two, whichever is picked, and the EOI of
line 3 is no more waited for. -/
theorem test_acknowledge :
    (acknowledge chipAtReset 1 0x0008 0 { chipAtReset with isr := 0x0A, owed := 0x000A }).isr = 0x02 ∧
      (acknowledge chipAtReset 0 0x0008 0 { chipAtReset with isr := 0x0A, owed := 0x000A }).isr = 0x08 ∧
      (acknowledge chipAtReset 0 0x0008 0 { chipAtReset with isr := 0x0A, owed := 0x000A }).owed = 0x0002 := by decide

/-- R125: lines 1 and 9 taken, then EOI 1: line 2 stays in service at the master. -/
theorem test_acknowledge_held :
    (acknowledge chipAtReset 7 0x0002 0x04 { chipAtReset with isr := 0x06, owed := 0x0202 }).isr = 0x04 := by decide

/-- R108: with line 2 alone in service at the master it is line 2 that ends, though a slave-side line is in service. -/
theorem test_acknowledge_held_alone :
    (acknowledge chipAtReset 7 0x0100 0x04 { chipAtReset with isr := 0x04, owed := 0x0100 }).isr = 0 := by decide

/-- U9: two EOIs for line 3, or the wrong line, with line 1 in service: any ISR. -/
theorem test_acknowledge_twice :
    (acknowledge { chipAtReset with isr := 0x50 } 0 0x0008 0 { chipAtReset with isr := 0x02, owed := 0x0002 }).isr = 0x50 := by
  decide

/-- U7: with `all_command` ICW2 comes out of sequence, and the chip's state is any value. -/
theorem test_all_command_out_of_sequence :
    (takeCommand { chipAtReset with imr := 0x5A } chipAtReset 0x20 { chipAtReset with icwStep := 3 }).imr = 0x5A := by decide

/-! ## Admission -/

/-- A1, A5, A9, A11, A12, A14: the mark each refused word leaves. -/
theorem test_refusals :
    got (step (State.reset.withFetchWord 16 0x0201)) (fun t => t.refusals) = some [.beforeInit] ∧
    got (step (ready.withFetchWord 16 0x0100)) (fun t => t.refusals) = some [.secondInit] ∧
    got (step (ready.withFetchWord 16 0x0000)) (fun t => t.refusals) = some [.reservedOp] ∧
    got (step (State.reset.withFetchWord 16 0x0101)) (fun t => t.refusals) = some [.reservedOperand] ∧
    got (step (State.reset.withFetchWord 16 0x0210)) (fun t => t.refusals) = some [.lineOutOfRange] := by decide

/-- A14: re-entry, whatever the word. -/
theorem test_reentry :
    got (step { midEnable with stream := [⟨0x0000, .afterMicroSteps 0⟩] })
      (fun t => (t.refusals, t.trace, t.busy)) = some ([.reentry], [], true) := by decide

/-- A6 with `mod16`: executed as ENABLE 0. -/
theorem test_mod16 : got (exec (.enable 0x10) mod16) (fun t => (t.irqMask, t.refusals)) = some (0xFFFE, []) := by decide

/-- A4: admitted, and latched at the micro-step grain. -/
theorem test_admitted : got (step (State.reset.withFetchWord 16 0x0100)) (fun t => (t.cmd, t.busy, t.step, t.phase)) =
    some (0x0100, true, 0, .uninitialized) := by decide

/-- I5: the mask is written by step 0, before any transaction. -/
theorem test_step_zero : got (step { State.reset with busy := true, cmd := 0x0100 })
    (fun t => (t.maskO, t.step, t.phase, t.trace)) = some (0xFFFB, 1, .uninitialized, []) := by decide

/-- I5: the last micro-step of INIT. -/
theorem test_init_ends :
    got (step { State.reset with irqMask := 0xFFFB, busy := true, cmd := 0x0100, step := 10, txns := [.maskS 0xFF] })
      (fun t => (t.phase, t.busy, t.step, t.trace)) = some (.ready, false, 0, [.w 0x00A1 0xFF]) := by decide

/-- The window of R146 for DISABLE 9 of mask 0xFDF9: after step 1 the pair is (0xFD, 0xFD). -/
theorem test_window : got (exec (.maskM 0xFD) mirrored) (fun t => (t.master.imr, t.slave.imr)) = some (0xFD, 0xFD) := by
  decide

/-- A row's word placed for the next step runs as that row, here the first after reset. -/
theorem test_withFetchWord_row : got (step (State.reset.withFetchWord 24 0x00A020)) (fun t => (t.trace, t.busy)) =
    some ([.w 0x00A0 0x20], false) := by decide

/-! ## Witnesses: states that meet the hypotheses of the obligations -/

/-- EncodeThenDecode, at the boundary of the line operand. -/
theorem witness_EncodeThenDecode : (Instr.eoi 15).wf = true ∧ (Instr.maskM 0xFF).wf = true := by decide

/-- DecodeThenEncode, one word of each format. -/
theorem witness_DecodeThenEncode :
    decode .split false (.cmd16 0x020F) = .ok (.enable 15) ∧ decode .allCommand true (.portw 0x002020) = .ok .icw2M ∧
      decode .split false (.portr 0x00A0) = .ok .rdS := by decide

/-- ReservedWordsRejected: each name at a boundary, and a word that is taken. -/
theorem witness_ReservedWordsRejected :
    decodeCmd 0x00FF = .error .reservedOp ∧ decodeCmd 0x0700 = .error .reservedOp ∧
    decodeCmd 0x0601 = .error .reservedOperand ∧ decodeCmd 0x0410 = .error .lineOutOfRange ∧
    decodeCmd 0x040F = .ok (.eoi 15) := by decide

/-- StepRunsSubmittedCommand: both clauses, and a word only `readCmd` takes. -/
theorem witness_StepRunsSubmittedCommand :
    ready.busy = false ∧ (ready.placeCommand 0x0209).stream = [⟨0x0209, .whenIdle⟩] ∧
    readCmd 0x0209 = .ok (.enable 9) ∧ decodeCmd 0x0209 = .ok (.enable 9) ∧ readCmd 0x0210 = .ok (.enable 16) := by
  decide

/-- Undisturbed, for a caller with nothing more to submit. -/
theorem undisturbed_of_nil {s : State} (h : s.stream = []) : Undisturbed s := by
  intro w rest e; rw [h] at e; cases e

/-- StepRunsTransaction. -/
theorem witness_StepRunsTransaction :
    midEnable.busy = true ∧ midEnable.step ≠ 0 ∧ midEnable.txns = [.maskS 0xFD] ∧ Undisturbed midEnable ∧
      ∃ t, exec (.maskS 0xFD) { midEnable with txns := [], stream := tick midEnable.stream } = .next t :=
  ⟨rfl, by decide, rfl, undisturbed_of_nil rfl, _, rfl⟩

/-- RetireAdvancesOrEnds: each clause. -/
theorem witness_RetireAdvancesOrEnds :
    midEnable.txns ≠ [] ∧ State.reset.txns = [] ∧ ({ ready with cmd := 0x0100 } : State).cmd = 0x0100 ∧
      ({ ready with cmd := 0x0500 } : State).cmd = 0x0500 ∧ ({ ready with cmd := 0x040F } : State).cmd ≠ 0x0600 := by decide

/-- StepZeroComputesMask: the hypotheses, and a latched word for each clause. -/
theorem witness_StepZeroComputesMask :
    beforeEnable.busy = true ∧ beforeEnable.step = 0 ∧ Undisturbed beforeEnable ∧
      beforeEnable.cmd = lineWord 0x02 9 ∧ ({ beforeEnable with cmd := 0x030F } : State).cmd = lineWord 0x03 15 ∧
      ({ beforeEnable with cmd := 0x0408 } : State).cmd = lineWord 0x04 8 ∧
      ({ beforeEnable with cmd := 0x0407 } : State).cmd = lineWord 0x04 7 ∧
      ({ beforeEnable with cmd := 0x0100 } : State).cmd = 0x0100 ∧
      ({ beforeEnable with cmd := 0x0500 } : State).cmd = 0x0500 ∧
      ({ beforeEnable with cmd := 0x0600 } : State).cmd = 0x0600 :=
  ⟨rfl, rfl, undisturbed_of_nil rfl, by decide, by decide, by decide, by decide, rfl, rfl, rfl⟩

/-- EndedRunIdles. -/
theorem witness_EndedRunIdles : State.reset.busy = false ∧ State.reset.stream = [] := by decide

/-- AdmissionChecksInOrder: idle with an admitted word, idle with words that fail two checks (the first one counts),
busy with a caller that does not wait. -/
theorem witness_AdmissionChecksInOrder :
    admission ready 0x0209 = none ∧ ready.par.grain = .microStep ∧
    admission State.reset 0x0210 = some .lineOutOfRange ∧ admission State.reset 0x0501 = some .reservedOperand ∧
    admission State.reset 0x0500 = some .beforeInit ∧ admission ready 0x0100 = some .secondInit ∧
    admission ready 0x0700 = some .reservedOp ∧
    admission { midEnable with stream := [⟨0x0700, .afterMicroSteps 0⟩] } 0x0700 = some .reentry := by decide

/-- ReentryRefusedInsideACommand: both clauses. -/
theorem witness_ReentryRefusedInsideACommand :
    midEnable.busy = true ∧
    ({ midEnable with stream := [⟨0x0100, .afterMicroSteps 0⟩] } : State).stream = [⟨0x0100, .afterMicroSteps 0⟩] ∧
    got (step { midEnable with stream := [⟨0x0100, .afterMicroSteps 1⟩] }) (fun t => t.stream) =
      some [⟨0x0100, .afterMicroSteps 0⟩] := by decide

/-- CommandsAcceptedAtMicroGrain: both phases, both kinds of line operand. -/
theorem witness_CommandsAcceptedAtMicroGrain :
    State.reset.busy = false ∧ State.reset.par.grain = .microStep ∧ State.reset.phase = .uninitialized ∧
    ready.busy = false ∧ ready.par.grain = .microStep ∧ ready.phase = .ready ∧ LineOk ready 15 ∧
    LineOk { ready with par := { Config.defaults with lineOor := .mod16 } } 255 := by
  refine ⟨rfl, rfl, rfl, rfl, rfl, rfl, .inl (by decide), .inr rfl⟩

/-- CommandsTurnedAway: each clause. -/
theorem witness_CommandsTurnedAway :
    midEnable.busy = true ∧ ready.busy = false ∧ (Instr.enable 16).wf = false ∧ ready.par.lineOor = .refuse ∧
    (Instr.rdirr).wf = true ∧ State.reset.phase = .uninitialized ∧ ready.phase = .ready ∧
    Instr.init.isCommand = true := by decide

/-- InitAtomicEffect, and the same with every other value of the parameters it does not name. -/
theorem witness_InitAtomicEffect :
    fresh.busy = false ∧ fresh.phase = .uninitialized ∧ fresh.par.grain = .atomic := by decide

/-- EnableAtomicEffect, DisableAtomicEffect, EoiAtomicEffect, ReadRegAtomicEffect, EnableThenDisable: the boundary
operands 0, 7, 8 and 15. -/
theorem witness_ReadyAtomic_LineOk :
    ReadyAtomic atomic ∧ LineOk atomic 0 ∧ LineOk atomic 7 ∧ LineOk atomic 8 ∧ LineOk atomic 15 ∧
      ReadyAtomic mod16 ∧ LineOk mod16 255 :=
  ⟨⟨rfl, rfl, rfl⟩, .inl (by decide), .inl (by decide), .inl (by decide), .inl (by decide), ⟨rfl, rfl, rfl⟩, .inr rfl⟩

/-- ReadRegAtomicEffect: canned responses, and none with no responder. -/
theorem witness_ReadRegAtomicEffect :
    (canned [0x80, 0x01]).answers = [0x80, 0x01] ∧ atomic.answers = [] ∧ atomic.par.responder = false := by decide

/-- LineTakenModuloSixteen: 31 is taken as 15. -/
theorem witness_LineTakenModuloSixteen :
    ReadyAtomic mod16 ∧ mod16.par.lineOor = .mod16 ∧ (31 : Byte).toNat % 16 = (15 : Byte).toNat :=
  ⟨⟨rfl, rfl, rfl⟩, rfl, by decide⟩

/-- MicroStepsRefineAtomic: INIT at reset, EOI 8 when Ready. -/
theorem witness_MicroStepsRefineAtomic :
    State.reset.turnedAway .init = none ∧ ready.turnedAway (.eoi 8) = none ∧ ready.busy = false ∧
      ready.par.grain = .microStep ∧ Patient ready.stream :=
  ⟨by decide, by decide, rfl, rfl, .inl rfl⟩

/-- CascadeInvariantTable: masks at which each premise holds, and one at which the conclusion fails without it. -/
theorem witness_CascadeInvariantTable :
    invA 0xFFFF ∧ invB 0xFFFF ∧ invA 0xFEFB ∧ ¬ invB 0xFFFB ∧ ¬ invA 0xFEFF ∧ lineNo 2 = 2 ∧ lineNo 9 = 9 := by decide

/-- EnableThenDisable: the premises of the restoring clause. -/
theorem witness_EnableThenDisable :
    ReadyAtomic (masked 0xFFFF) ∧ (masked 0xFFFF).irqMask.getLsbD (lineNo 9) = true ∧ invA (masked 0xFFFF).irqMask ∧
      invB (masked 0xFFFF).irqMask :=
  ⟨⟨rfl, rfl, rfl⟩, by decide, by decide, by decide⟩

/-- DisablingEverySlaveLineMasksCascade: S3's third order, a master-side line among them. -/
theorem witness_DisablingEverySlaveLineMasksCascade :
    (∀ l ∈ ([12, 8, 15, 0, 9, 14, 10, 13, 11] : List Byte), LineOk atomic l) ∧
    (∀ n, 8 ≤ n → n < 16 → ∃ l ∈ ([12, 8, 15, 0, 9, 14, 10, 13, 11] : List Byte), lineNo l = n) := by
  refine ⟨fun l hl => .inl ?_, fun n h8 h16 => ?_⟩
  · revert l; decide
  · interval_cases n <;> decide

/-- MaskOpsCommuteOutsideCascade: lines 0 and 9. -/
theorem witness_MaskOpsCommuteOutsideCascade :
    lineNo 0 ≠ lineNo 9 ∧ lineNo 0 ≠ 2 ∧ lineNo 9 ≠ 2 ∧ LineOk atomic 0 ∧ LineOk atomic 9 :=
  ⟨by decide, by decide, by decide, .inl (by decide), .inl (by decide)⟩

/-- WritePairIsAFunctionOfTheMask: M8 and M22, two different operations that leave the mask they found. -/
theorem witness_WritePairIsAFunctionOfTheMask :
    ReadyAtomic (masked 0xFFF9) ∧ ReadyAtomic (masked 0xFFFF) ∧ LineOk (masked 0xFFF9) 1 ∧ LineOk (masked 0xFFFF) 4 :=
  ⟨⟨rfl, rfl, rfl⟩, ⟨rfl, rfl, rfl⟩, .inl (by decide), .inl (by decide)⟩

/-- MaskWrittenByThreeOperations: a step that changes the mask. -/
theorem witness_MaskWrittenByThreeOperations : ∃ t, step beforeEnable = .next t ∧ t.irqMask ≠ beforeEnable.irqMask :=
  ⟨_, rfl, by decide⟩

/-- ResultWrittenByReadsOnly: a step that changes the result. -/
theorem witness_ResultWrittenByReadsOnly :
    ∃ t, step { ready with busy := true, cmd := 0x0500, step := 4, txns := [.rdS], readM := 0x05, answers := [0x10] } =
      .next t ∧ t.result ≠ ready.result :=
  ⟨_, rfl, by decide⟩

/-- PhaseWrittenByInitOnly: a step that changes `phase`, at each grain. -/
theorem witness_PhaseWrittenByInitOnly :
    (∃ t, step { State.reset with irqMask := 0xFFFB, busy := true, cmd := 0x0100, step := 10, txns := [.maskS 0xFF] } =
      .next t ∧ t.phase ≠ State.reset.phase) ∧
    ∃ t, step { fresh with stream := [⟨0x0100, .whenIdle⟩] } = .next t ∧ t.phase ≠ fresh.phase :=
  ⟨⟨_, rfl, by decide⟩, _, rfl, by decide⟩

/-- PortWriteRowsComplete, PortWriteReachesOneChip, ByteInSequenceIsIcw: rows of both chips, both ports,
both values of `ICW_PORTS`. -/
theorem witness_rowWriteOn :
    rowWriteOn ready.par.icwPorts .icw1M = some (0x0020, 0x11) ∧ rowWriteOn .split .icw2S = some (0x00A1, 0x28) ∧
    rowWriteOn .split (.maskM 0xFF) = some (0x0021, 0xFF) ∧ rowWriteOn .split .eoiS = some (0x00A0, 0x20) ∧
    rowWriteOn .allCommand .icw2M = some (0x0020, 0x20) ∧ rowWriteOn .allCommand .icw4S = some (0x00A0, 0x01) ∧
    rowWriteOn .allCommand (.maskS 0) = some (0x00A1, 0) := by decide

/-- PortWriteReachesOneChip: chips absent. -/
theorem witness_PortWriteReachesOneChip :
    ({ ready with par := { Config.defaults with chipsPresent := false } } : State).par.chipsPresent = false := rfl

/-- PortReadRowsComplete: a canned response, and a draw. -/
theorem witness_PortReadRowsComplete :
    (canned [0x05]).answers = [0x05] ∧ ready.answers = [] ∧ ready.par.responder = false := by decide

/-- ResponderAnswersSelectedRegister: a chip with a selector, and one without. -/
theorem witness_ResponderAnswersSelectedRegister :
    ∃ s : State, s.par.responder = true ∧ s.par.chipsPresent = true ∧ s.answers = [] ∧ s.master.rsel = .isr ∧
      s.slave.rsel = .none :=
  ⟨{ ready with par := { Config.defaults with responder := true }, master := { chipAtReset with rsel := .isr } },
    by decide⟩

/-- ChipsUp holds of mirrored chips. -/
theorem chipsUp_mirrored : ChipsUp mirrored := ⟨rfl, rfl, rfl⟩

/-- Mirrors holds of them too. -/
theorem mirrors_mirrored : mirrored.Mirrors := ⟨rfl, rfl, by decide, by decide⟩

/-- MaskRowReplacesMaskRegister, Icw1RowBeginsSequence, SelectorRowsSelect. -/
theorem witness_chip_rows :
    ready.par.chipsPresent = true ∧ ready.master.icwStep = 0 ∧ ready.slave.icwStep = 0 ∧
      portOp .split .icw1S = some (.write 0x00A0 0x11) := by decide

/-- ByteInSequenceIsIcw: each position of each chip, and a mask row that is read as an ICW there. -/
theorem witness_ByteInSequenceIsIcw :
    got (exec (.maskM 0xAB) { ready with master := { chipAtReset with icwStep := 3 } }) (fun t => t.master.vbase) =
      some 0xAB ∧
    got (exec (.maskS 0xAB) { ready with slave := { chipAtReset with icwStep := 2 } }) (fun t => t.slave.cascade) =
      some 0xAB ∧
    got (exec (.maskS 0xAB) { ready with slave := { chipAtReset with icwStep := 1 } }) (fun t => t.slave.mode) =
      some 0xAB ∧
    ready.par.icwPorts = .split := by decide

/-- InitConfiguresBothChips. -/
theorem witness_InitConfiguresBothChips :
    fresh.busy = false ∧ fresh.phase = .uninitialized ∧ fresh.par.grain = .atomic ∧ fresh.par.chipsPresent = true ∧
      fresh.par.icwPorts = .split := by decide

/-- MaskOpsRestoreMirror, EoiAndReadsKeepMasksAndConfiguration. -/
theorem witness_MaskOpsRestoreMirror :
    ReadyAtomic mirrored ∧ LineOk mirrored 15 ∧ ChipsUp mirrored ∧ mirrored.Mirrors :=
  ⟨⟨rfl, rfl, rfl⟩, .inl (by decide), chipsUp_mirrored, mirrors_mirrored⟩

/-- Busy with EOI 1, its byte to the master left: lines 1 and 9 were taken. -/
def midEoi1 : State :=
  { mirrored with
    busy := true, cmd := 0x0401, step := 1
    master := { chipAtReset with imr := 0xF9, isr := 0x06, owed := 0x0202 }
    slave := { chipAtReset with imr := 0xFD, isr := 0x02, owed := 0x0200 } }

/-- Busy with EOI 9, before its byte to the slave: line 9 was taken. -/
def midEoi9 : State :=
  { mirrored with
    busy := true, cmd := 0x0409, step := 1
    master := { chipAtReset with imr := 0xF9, isr := 0x04, owed := 0x0200 }
    slave := { chipAtReset with imr := 0xFD, isr := 0x02, owed := 0x0200 } }

/-- The same with the slave's byte done. -/
def midEoi9Master : State := { midEoi9 with step := 2, slave := { chipAtReset with imr := 0xFD } }

/-- EoiRowClearsOneServiceBit: the bytes of EOI 1 and EOI 9 at both chips, both clauses on the
master's ISR, and a row executed on its own. -/
theorem witness_EoiRowClearsOneServiceBit :
    (midEoi1.par.chipsPresent = true ∧ midEoi1.phase = .ready ∧ midEoi1.master.icwStep = 0 ∧
      Awaited midEoi1 midEoi1.master.owed ∧ midEoi1.master.isr ≠ 0 ∧ midEoi1.environment.slave.isr ≠ 0 ∧
      ∃ b, b ≠ 2 ∧ midEoi1.environment.master.isr.getLsbD b = true) ∧
    (midEoi9.slave.icwStep = 0 ∧ Awaited midEoi9 midEoi9.slave.owed ∧ midEoi9.slave.isr ≠ 0) ∧
    (Awaited midEoi9Master midEoi9Master.master.owed ∧ midEoi9Master.master.isr ≠ 0) ∧
    Awaited { midEoi9 with busy := false } midEoi9.slave.owed := by
  refine ⟨⟨rfl, rfl, rfl, .inl ⟨rfl, 1, by decide⟩, by decide, ?_, 1, by decide, ?_⟩, ⟨rfl, .inl ⟨rfl, 9, by decide⟩, by decide⟩,
    ⟨.inl ⟨rfl, 9, by decide⟩, by decide⟩, .inr ⟨.inl rfl, by decide⟩⟩
  · have h : midEoi1.environment.slave.isr = 0x02 ||| hi midEoi1.taken := rfl
    intro h0
    have : (0x02 ||| hi midEoi1.taken : Byte).getLsbD 1 = false := by rw [← h, h0]; rfl
    rw [BitVec.getLsbD_or] at this
    simp at this
  · rw [show midEoi1.environment.master.isr = 0x06 ||| masterPart midEoi1.taken from rfl, BitVec.getLsbD_or]
    simp

/-- ServiceBeginsEnabledEndsByEoi. -/
theorem witness_ServiceBeginsEnabledEndsByEoi :
    ChipsUp mirrored ∧ mirrored.phase = .ready ∧ Instr.selIrr.isCommand = false ∧ mirrored.par.icwPorts = .split ∧
      Instr.selIrr.atIcwPosition = false ∧ ∃ t, exec .selIrr mirrored = .next t :=
  ⟨chipsUp_mirrored, rfl, rfl, rfl, rfl, _, rfl⟩

/-- Busy with DISABLE 9 of mask 0xFDF9, step 0 done: the mask is new, the chips hold the old one. -/
def beforeWindow : State :=
  { mirrored with irqMask := 0xFFFD, busy := true, cmd := 0x0309, step := 1, txns := [.maskM 0xFD, .maskS 0xFF] }

/-- FlushWindowLetsNothingThrough: DISABLE 9's two masks, by row and by micro-step. -/
theorem witness_FlushWindowLetsNothingThrough :
    mirrored.par.chipsPresent = true ∧ mirrored.master.icwStep = 0 ∧ chipMask mirrored = 0xFDF9 ∧
      (0xFFFD : Half).getLsbD 15 = true ∧ (chipMask mirrored).getLsbD 15 = true ∧
      beforeWindow.par.chipsPresent = true ∧ beforeWindow.busy = true ∧ beforeWindow.Within (.disable 9) ∧
      beforeWindow.step = 1 ∧ beforeWindow.FlushProgress 1 ∧ Undisturbed beforeWindow :=
  ⟨rfl, rfl, by decide, by decide, by decide, rfl, rfl, ⟨by decide, by decide, by decide, by decide, by decide⟩, rfl,
    ⟨rfl, rfl, fun h => absurd rfl h, fun h => absurd h (by decide)⟩, undisturbed_of_nil rfl⟩

/-- Sequenced: idle, and inside ENABLE 9. -/
theorem sequenced_mid : midEnable.Sequenced := by
  show ∃ i, midEnable.Within i
  exact ⟨.enable 9, by decide, by decide, by decide, by decide, by decide⟩

/-- SequencedKept, SequencedNeverStops, SequencedStepAtMostTen. -/
theorem witness_SequencedKept : midEnable.Sequenced ∧ State.reset.Sequenced ∧ ∃ t, step midEnable = .next t :=
  ⟨sequenced_mid, ⟨rfl, rfl⟩, _, rfl⟩

/-- The same with chips that hold what the first mask write has left. -/
def midCoherent : State :=
  { midEnable with master := { chipAtReset with imr := 0xFB }, slave := { chipAtReset with imr := 0xFF } }

/-- It is coherent: the master's register is new, the slave's still the old one. -/
theorem coherent_mid : midCoherent.Coherent := by
  constructor
  · show ∃ i, midCoherent.Within i
    exact ⟨.enable 9, by decide, by decide, by decide, by decide, by decide⟩
  · intro _ _
    show ∀ i, readCmd midCoherent.cmd = .ok i → _
    intro i hi
    rw [show readCmd midCoherent.cmd = .ok (.enable 9) by decide] at hi
    cases hi
    exact ⟨rfl, rfl, fun _ => by decide, fun h => absurd h (by decide)⟩

/-- CoherentKept. -/
theorem witness_CoherentKept : midCoherent.busy = true ∧ midCoherent.Coherent ∧ ∃ t, step midCoherent = .next t :=
  ⟨rfl, coherent_mid, _, rfl⟩

/-- LegalTraceKept, LegalTraceFourPorts: a trace of a write and a read. -/
theorem witness_LegalTraceKept :
    ({ ready with trace := [.w 0x0021 0xFB, .r 0x00A0 0x10] } : State).LegalTrace := by
  intro e he
  simp at he
  rcases he with rfl | rfl
  · exact ⟨.maskM 0xFB, rfl⟩
  · exact ⟨.rdS, rfl⟩

/-- ReadyTraceAndMarksPersist, OneTransactionAMicroStep: a step of a transaction, and one of an idle state. -/
theorem witness_steps :
    (∃ t, step midEnable = .next t) ∧ midEnable.phase = .ready ∧ midEnable.par.grain = .microStep ∧
      (∃ t, step ready = .next t) ∧ ready.busy = false :=
  ⟨⟨_, rfl⟩, rfl, rfl, ⟨_, rfl⟩, rfl⟩

/-- PicseqIndependentOfChips: chips that hold other masks and are absent. -/
theorem witness_PicseqIndependentOfChips :
    mirrored.SamePicseq { mirrored with
      par := { Config.defaults with grain := .atomic, chipsPresent := false }, master := chipAtReset } ∧
    mirrored.par.responder = false ∧ ∃ t, step mirrored = .next t :=
  ⟨⟨rfl, rfl, rfl, rfl, rfl, rfl, rfl, rfl, rfl, rfl, rfl, rfl, rfl, rfl, rfl⟩, rfl, _, rfl⟩

end Sys2Proof.Tests
end

section
/-!
SUPPORT. Step 0 and the transaction lists of the commands (spec/10_state.md R16): one equation for step 0 of all six, and
what the lists hold and how long they are. Then the equations of `step`, the forward reading of `step_cases`.
-/
namespace Sys2Proof.Machine

open Sys2Proof.Claims

/-! ## Step 0 and the lists -/

/-- The mask that step 0 of a command leaves (R80, R90, R91); the other commands keep the mask. -/
def maskAfter (i : Instr) (m : Half) : Half :=
  match i with
  | .init => Config.maskBaseline
  | .enable l => enableMask (lineOf l) m
  | .disable l => disableMask (lineOf l) m
  | _ => m

/-- Step 0 stores the mask and holds the command's list, and that is all (R16). -/
theorem State.stepZero_eq (i : Instr) (s : State) :
    s.stepZero i =
      (s.setMask (maskAfter i s.irqMask)).schedule (txnsOf i (s.setMask (maskAfter i s.irqMask))) := by
  cases i <;> rfl

@[simp] theorem State.stepZero_par (i : Instr) (s : State) : (s.stepZero i).par = s.par := by
  rw [State.stepZero_eq]; rfl
@[simp] theorem State.stepZero_phase (i : Instr) (s : State) : (s.stepZero i).phase = s.phase := by
  rw [State.stepZero_eq]; rfl
@[simp] theorem State.stepZero_result (i : Instr) (s : State) : (s.stepZero i).result = s.result := by
  rw [State.stepZero_eq]; rfl
@[simp] theorem State.stepZero_busy (i : Instr) (s : State) : (s.stepZero i).busy = s.busy := by
  rw [State.stepZero_eq]; rfl
@[simp] theorem State.stepZero_cmd (i : Instr) (s : State) : (s.stepZero i).cmd = s.cmd := by
  rw [State.stepZero_eq]; rfl
@[simp] theorem State.stepZero_readM (i : Instr) (s : State) : (s.stepZero i).readM = s.readM := by
  rw [State.stepZero_eq]; rfl
@[simp] theorem State.stepZero_readS (i : Instr) (s : State) : (s.stepZero i).readS = s.readS := by
  rw [State.stepZero_eq]; rfl
@[simp] theorem State.stepZero_master (i : Instr) (s : State) : (s.stepZero i).master = s.master := by
  rw [State.stepZero_eq]; rfl
@[simp] theorem State.stepZero_slave (i : Instr) (s : State) : (s.stepZero i).slave = s.slave := by
  rw [State.stepZero_eq]; rfl
@[simp] theorem State.stepZero_trace (i : Instr) (s : State) : (s.stepZero i).trace = s.trace := by
  rw [State.stepZero_eq]; rfl
@[simp] theorem State.stepZero_refusals (i : Instr) (s : State) : (s.stepZero i).refusals = s.refusals := by
  rw [State.stepZero_eq]; rfl
@[simp] theorem State.stepZero_stream (i : Instr) (s : State) : (s.stepZero i).stream = s.stream := by
  rw [State.stepZero_eq]; rfl
@[simp] theorem State.stepZero_answers (i : Instr) (s : State) : (s.stepZero i).answers = s.answers := by
  rw [State.stepZero_eq]; rfl
@[simp] theorem State.stepZero_draws (i : Instr) (s : State) : (s.stepZero i).draws = s.draws := by
  rw [State.stepZero_eq]; rfl
@[simp] theorem State.stepZero_irqMask (i : Instr) (s : State) :
    (s.stepZero i).irqMask = maskAfter i s.irqMask := by
  rw [State.stepZero_eq]; rfl
@[simp] theorem State.stepZero_step (i : Instr) (s : State) : (s.stepZero i).step = 1 := by
  rw [State.stepZero_eq]; rfl

/-- A list depends on the mask and the parameters alone. -/
theorem txnsOf_congr {s t : State} (i : Instr) (hm : t.irqMask = s.irqMask) (hp : t.par = s.par) :
    txnsOf i t = txnsOf i s := by
  cases i <;> simp [txnsOf, hm, hp]

/-- The list step 0 holds is the command's list as the state after step 0 names it. -/
@[simp] theorem State.stepZero_txns (i : Instr) (s : State) : (s.stepZero i).txns = txnsOf i (s.stepZero i) := by
  rw [State.stepZero_eq, State.schedule_txns]
  exact (txnsOf_congr i rfl rfl).symm

theorem slaveSide_lineOf (l : Byte) : slaveSide (lineOf l) = decide (8 ≤ lineNo l) := by
  rw [slaveSide, lineOf_toNat, lineNo]

theorem length_txnsOf (i : Instr) (s : State) : (txnsOf i s).length = transactionCount i := by
  cases i
  case eoi l => by_cases h : 8 ≤ lineNo l <;> simp [txnsOf, eoiTxns, slaveSide_lineOf, transactionCount, h]
  case rdirr => cases h : s.par.readOrder <;> simp [txnsOf, readRegTxns, readTxns, transactionCount, h]
  case rdisr => cases h : s.par.readOrder <;> simp [txnsOf, readRegTxns, readTxns, transactionCount, h]
  all_goals rfl

theorem transactionCount_le (i : Instr) : transactionCount i ≤ 10 := by
  cases i
  case eoi l => simp only [transactionCount]; split <;> decide
  all_goals simp [transactionCount]

theorem transactionCount_pos {i : Instr} (h : i.isCommand = true) : 0 < transactionCount i := by
  cases i
  case eoi l => simp only [transactionCount]; split <;> decide
  all_goals simp [transactionCount, Instr.isCommand] at h ⊢

theorem txnsOf_ne_nil {i : Instr} (s : State) (h : i.isCommand = true) : txnsOf i s ≠ [] := by
  rw [← List.length_pos_iff, length_txnsOf]
  exact transactionCount_pos h

/-- The rows of EOI, RDIRR and RDISR: neither an ICW nor a mask byte. -/
def quietRow : Instr → Bool
  | .eoiS | .eoiM | .selIrr | .selIsr | .rdM | .rdS => true
  | _ => false

theorem isCommand_of_quietRow {j : Instr} (h : quietRow j = true) : j.isCommand = false := by
  cases j <;> simp [quietRow, Instr.isCommand] at h ⊢

theorem quietRow_of_mem_readRegTxns {sel j : Instr} {o : ReadOrder} (hs : quietRow sel = true)
    (h : j ∈ readRegTxns sel o) : quietRow j = true := by
  have hj : j = sel ∨ j = .rdM ∨ j = .rdS := by
    cases o <;> simp [readRegTxns, readTxns] at h <;> tauto
  rcases hj with rfl | rfl | rfl
  · exact hs
  · rfl
  · rfl

theorem quietRow_of_mem_eoiTxns {l : Byte} {j : Instr} (h : j ∈ eoiTxns l) : quietRow j = true := by
  have hj : j = .eoiS ∨ j = .eoiM := by
    unfold eoiTxns at h
    split at h <;> simp at h <;> tauto
  rcases hj with rfl | rfl <;> rfl

theorem quietRow_of_mem_txnsOf {i j : Instr} {s : State} (hi : (∃ l, i = .eoi l) ∨ i = .rdirr ∨ i = .rdisr)
    (h : j ∈ txnsOf i s) : quietRow j = true := by
  rcases hi with ⟨l, rfl⟩ | rfl | rfl
  · exact quietRow_of_mem_eoiTxns h
  · exact quietRow_of_mem_readRegTxns (sel := .selIrr) rfl h
  · exact quietRow_of_mem_readRegTxns (sel := .selIsr) rfl h

theorem isCommand_of_mem_flushTxns {m : Half} {j : Instr} (h : j ∈ flushTxns m) : j.isCommand = false := by
  simp only [flushTxns, List.mem_cons, List.not_mem_nil, or_false] at h
  rcases h with rfl | rfl <;> rfl

/-- A command's list holds port transactions only (R16). -/
theorem isCommand_of_mem_txnsOf {i j : Instr} {s : State} (h : j ∈ txnsOf i s) : j.isCommand = false := by
  cases i
  case init =>
    simp only [txnsOf, initTxns, List.mem_append, List.mem_cons, List.not_mem_nil, or_false] at h
    rcases h with h | h
    · rcases h with rfl | rfl | rfl | rfl | rfl | rfl | rfl | rfl <;> rfl
    · exact isCommand_of_mem_flushTxns h
  case enable l => exact isCommand_of_mem_flushTxns h
  case disable l => exact isCommand_of_mem_flushTxns h
  case eoi l => exact isCommand_of_quietRow (quietRow_of_mem_txnsOf (.inl ⟨l, rfl⟩) h)
  case rdirr => exact isCommand_of_quietRow (quietRow_of_mem_txnsOf (.inr (.inl rfl)) h)
  case rdisr => exact isCommand_of_quietRow (quietRow_of_mem_txnsOf (.inr (.inr rfl)) h)
  all_goals cases h

/-- The state after the admission and the step 0 of a command, from which its transactions run (R63, R16). -/
abbrev State.started (i : Instr) (s : State) : State := (s.accept (encodeCmd i)).stepZero i

/-- The latched word of a started command reads as the command. -/
theorem State.readCmd_started {i : Instr} (s : State) (h : i.isCommand = true) :
    readCmd (s.started i).cmd = .ok i := by
  simpa using readCmd_encodeCmd i h

theorem State.started_txns_ne_nil {i : Instr} (s : State) (h : i.isCommand = true) : (s.started i).txns ≠ [] := by
  rw [State.stepZero_txns]
  exact txnsOf_ne_nil _ h

/-! ## Admission -/

/-- An admitted command: the block is idle, and INIT comes exactly while Uninitialized (R63 checks 1, 5, 6). -/
theorem State.turnedAway_none {s : State} {i : Instr} (h : s.turnedAway i = none) :
    s.busy = false ∧ (i = .init ↔ s.phase = .uninitialized) := by
  have hb : s.busy = false := by
    by_contra hb
    rw [State.turnedAway_busy (by simpa using hb)] at h
    cases h
  refine ⟨hb, fun hi => ?_, fun hp => ?_⟩
  · subst hi
    cases hp : s.phase
    · rfl
    · simp [State.turnedAway, hb, hp] at h
  · by_contra hi
    simp only [State.turnedAway, hb, hp, if_neg hi, Bool.false_eq_true, if_false, if_true] at h
    split at h
    · split_ifs at h
    · cases h

/-- INIT is admitted when idle and Uninitialized. -/
theorem State.turnedAway_init {s : State} (hb : s.busy = false) (hp : s.phase = .uninitialized) :
    s.turnedAway .init = none := by
  simp [State.turnedAway, hb, hp]

theorem lineTaken_of_lineOk {s : State} {l : Byte} (h : LineOk s l) : lineTaken s.par.lineOor l = true := by
  rcases h with h | h
  · cases hl : s.par.lineOor <;> simp [lineTaken, lineInRange, h]
  · simp [lineTaken, h]

/-- EOI, RDIRR and RDISR: commands that keep the mask, with no line but EOI's (R105, R110, R111). -/
theorem quietCommand {i : Instr} {l : Byte} (h : i = .eoi l ∨ i = .rdirr ∨ i = .rdisr) :
    i.isCommand = true ∧ i ≠ .init ∧ (∀ m, maskAfter i m = m) ∧ ∀ k, i.line? = some k → k = l := by
  rcases h with rfl | rfl | rfl
  · exact ⟨rfl, by simp, fun _ => rfl, by rintro k ⟨⟩; rfl⟩
  · exact ⟨rfl, by simp, fun _ => rfl, nofun⟩
  · exact ⟨rfl, by simp, fun _ => rfl, nofun⟩

/-- ENABLE and DISABLE: commands with a line, whose list is the flush of the mask they leave (R90, R91, R92). -/
theorem maskCommand {i : Instr} {l : Byte} (h : i = .enable l ∨ i = .disable l) :
    i.isCommand = true ∧ i ≠ .init ∧ (∀ s, txnsOf i s = flushTxns s.irqMask) ∧ ∀ k, i.line? = some k → k = l := by
  rcases h with rfl | rfl
  · exact ⟨rfl, by simp, fun _ => rfl, by rintro k ⟨⟩; rfl⟩
  · exact ⟨rfl, by simp, fun _ => rfl, by rintro k ⟨⟩; rfl⟩

/-- Every other command is admitted when idle and Ready, with a line that is taken if it has one (R63, R64). -/
theorem State.turnedAway_ready {s : State} {i : Instr} (hb : s.busy = false) (hp : s.phase = .ready)
    (hi : i ≠ .init) (hl : ∀ l, i.line? = some l → LineOk s l) : s.turnedAway i = none := by
  simp only [State.turnedAway, hb, hp, if_neg hi]
  cases hv : i.line? with
  | none => simp
  | some l => simp [lineTaken_of_lineOk (hl l hv)]

/-! ## `exec` -/

theorem exec_next (i : Instr) (s : State) : ∃ t, exec i s = .next t := by
  cases h : i.isCommand
  · exact ⟨_, exec_transaction i s h⟩
  · exact ⟨_, exec_command i s h⟩

/-- What a submitted command does to an idle block: turned away, latched, or run whole (R63, R16). -/
theorem perform_cases (i : Instr) (s : State) :
    (∃ r, s.perform i (State.stepZero i) = s.refuse r) ∨
    (s.turnedAway i = none ∧ s.par.grain = .microStep ∧
      s.perform i (State.stepZero i) = s.accept (encodeCmd i)) ∨
    (s.turnedAway i = none ∧ s.par.grain = .atomic ∧
      s.perform i (State.stepZero i) = State.runTxns (s.started i).txns (s.started i)) := by
  cases ht : s.turnedAway i with
  | some r => exact .inl ⟨r, State.perform_turnedAway _ ht⟩
  | none =>
    cases hg : s.par.grain with
    | microStep => exact .inr (.inl ⟨rfl, rfl, State.perform_micro _ ht hg⟩)
    | atomic => exact .inr (.inr ⟨rfl, rfl, State.perform_atomic _ ht hg⟩)

/-- An admitted command at the atomic grain is step 0 and the whole list (R16, D4). -/
theorem exec_atomic {s : State} {i : Instr} (hi : i.isCommand = true) (ht : s.turnedAway i = none)
    (hg : s.par.grain = .atomic) :
    exec i s = .next (State.runTxns (s.started i).txns (s.started i)) := by
  rw [exec_command i s hi, State.perform_atomic _ ht hg]

/-! ## `step`, case by case -/

theorem step_reentry {s : State} {rest : List Submission} (h : s.intruder = some rest) :
    step s = .next (State.refuse .reentry (s.setStream rest)) := by
  simp only [step, State.fetch, h]

theorem State.intruder_idle {s : State} (hb : s.busy = false) : s.intruder = none := by
  simp [State.intruder, hb]

theorem State.intruder_undisturbed {s : State} (h : Undisturbed s) : s.intruder = none := by
  unfold State.intruder
  split_ifs
  · split
    · rename_i w rest hs; exact absurd hs (h w rest)
    · rfl
  · rfl

theorem step_ended {s : State} (hb : s.busy = false) (hs : s.stream = []) : step s = .next s := by
  simp only [step, State.fetch, State.intruder_idle hb, hb, State.fetchCommand, hs]
  rfl

theorem step_reserved {s : State} {a : Submission} {rest : List Submission} {r : Reject} (hb : s.busy = false)
    (hs : s.stream = a :: rest) (hr : readCmd a.word = .error r) :
    step s = .next (State.refuse r (s.setStream rest)) := by
  simp only [step, State.fetch, State.intruder_idle hb, hb, State.fetchCommand, hs, hr]
  rfl

theorem step_command {s : State} {a : Submission} {rest : List Submission} {i : Instr} (hb : s.busy = false)
    (hs : s.stream = a :: rest) (hr : readCmd a.word = .ok i) : step s = exec i (s.setStream rest) := by
  simp only [step, State.fetch, State.intruder_idle hb, hb, State.fetchCommand, hs, hr]
  rfl

theorem step_zero {s : State} {i : Instr} (hb : s.busy = true) (hn : s.intruder = none) (h0 : s.step = 0)
    (hr : readCmd s.cmd = .ok i) : step s = .next (State.stepZero i (s.setStream (tick s.stream))) := by
  simp only [step, State.fetch, hn, hb, if_true, State.fetchMicroStep, h0, hr]

theorem step_transaction {s u : State} {i : Instr} {rest : List Instr} (hb : s.busy = true) (hn : s.intruder = none)
    (h0 : s.step ≠ 0) (hl : s.txns = i :: rest)
    (hx : exec i ((s.setStream (tick s.stream)).setTxns rest) = .next u) : step s = .next u.retire := by
  simp only [step, State.fetch, hn, hb, if_true, State.fetchMicroStep, if_neg h0, hl, hx]

end Sys2Proof.Machine
end

section
/-!
SUPPORT. What one step can do to a predicate of the state, said once: an invariant of the sequencer has to be shown for five
moves (`Moves`), and then every step keeps it, at both grains (spec/10_state.md R16). With it the sequencer's own
invariant.
-/
namespace Sys2Proof.Machine

/-! ## The place within a command -/

/-- The command in progress is the one the latched word reads as. -/
theorem State.Sequenced.within {s : State} {i : Instr} (h : s.Sequenced) (hb : s.busy = true)
    (hr : readCmd s.cmd = .ok i) : s.Within i := by
  rw [State.Sequenced, if_pos hb] at h
  obtain ⟨j, hj⟩ := h
  have hw := hj.word
  rw [hr] at hw
  cases hw
  exact hj

theorem State.Sequenced.exists_within {s : State} (h : s.Sequenced) (hb : s.busy = true) : ∃ i, s.Within i := by
  rwa [State.Sequenced, if_pos hb] at h

theorem State.Sequenced.idle {s : State} (h : s.Sequenced) (hb : s.busy = false) : s.step = 0 ∧ s.txns = [] := by
  rwa [State.Sequenced, hb, if_neg (by decide)] at h

theorem State.sequenced_of_within {s : State} {i : Instr} (hb : s.busy = true) (h : s.Within i) : s.Sequenced := by
  rw [State.Sequenced, if_pos hb]
  exact ⟨i, h⟩

theorem State.sequenced_of_idle {s : State} (hb : s.busy = false) (h0 : s.step = 0) (hl : s.txns = []) :
    s.Sequenced := by
  rw [State.Sequenced, hb, if_neg (by decide)]
  exact ⟨h0, hl⟩

/-- Past step 0 the rest of the list is the command's list from `step` on, and it is not empty. -/
theorem State.Within.txns_eq {s : State} {i : Instr} (h : s.Within i) (h0 : s.step ≠ 0) :
    s.txns = (txnsOf i s).drop (s.step - 1) := by
  rw [h.list, if_neg h0]

theorem State.Within.txns_ne_nil {s : State} {i : Instr} (h : s.Within i) (h0 : s.step ≠ 0) : s.txns ≠ [] := by
  rw [h.txns_eq h0, ne_eq, List.drop_eq_nil_iff]
  have := h.range
  omega

/-- So the next row is a port transaction, and the list is empty after it exactly at the command's last micro-step. -/
theorem State.Within.next_row {s : State} {i j : Instr} {rest : List Instr} (h : s.Within i) (h0 : s.step ≠ 0)
    (hl : s.txns = j :: rest) :
    j ∈ txnsOf i s ∧ (txnsOf i s).drop s.step = rest ∧ rest.length + s.step = (txnsOf i s).length := by
  have hd : (txnsOf i s).drop (s.step - 1) = j :: rest := by rw [← h.txns_eq h0, hl]
  have hr : (txnsOf i s).drop s.step = rest := by
    rw [show s.step = s.step - 1 + 1 by omega, ← List.drop_drop, hd]; rfl
  refine ⟨List.mem_of_mem_drop (hd ▸ List.mem_cons_self), hr, ?_⟩
  have := congrArg List.length hr
  rw [List.length_drop] at this
  have := h.range
  omega

/-- A command's place depends on the block's own registers alone. -/
theorem State.Within.congr {s t : State} {i : Instr} (h : s.Within i) (hc : t.cmd = s.cmd) (hp : t.phase = s.phase)
    (hm : t.irqMask = s.irqMask) (hs : t.step = s.step) (hl : t.txns = s.txns) (hpar : t.par = s.par) : t.Within i := by
  have ht := txnsOf_congr i hm hpar
  constructor
  · rw [hc]; exact h.word
  · rw [hp]; exact h.phase
  · rw [hm, hs]; exact h.baseline
  · rw [hl, hs, ht]; exact h.list
  · rw [hs, ht]; exact h.range

/-! ## The moves of a step -/

/-- What makes a predicate of sequenced states an invariant: it is kept when the stream moves, by a refusal mark, by the
admission of a command, by step 0, and by one transaction with the sequencer's own advance (R16, R63). -/
structure Moves (P : State → Prop) : Prop where
  sequenced : ∀ s, P s → s.Sequenced
  stream : ∀ s l, P s → P (s.setStream l)
  mark : ∀ s r, P s → P (s.refuse r)
  accept : ∀ s i, P s → i.isCommand = true → s.turnedAway i = none → P (s.accept (encodeCmd i))
  zero : ∀ s i, P s → s.busy = true → s.Within i → s.step = 0 → P (s.stepZero i)
  row : ∀ s i j rest, P s → s.busy = true → s.Within i → s.step ≠ 0 → s.txns = j :: rest →
    P (State.retire (State.emit j (s.setTxns rest)))

/-- A list run to its end is one transaction after the other. -/
theorem Moves.runTxns {P : State → Prop} (h : Moves P) (l : List Instr) :
    ∀ s, P s → s.busy = true → s.step ≠ 0 → s.txns = l → P (State.runTxns l s) := by
  induction l with
  | nil => exact fun s hs _ _ _ => hs
  | cons j rest ih =>
    intro s hs hb h0 hl
    obtain ⟨i, hi⟩ := (h.sequenced s hs).exists_within hb
    have hrow := h.row s i j rest hs hb hi h0 hl
    rw [State.runTxns]
    cases rest with
    | nil => exact hrow
    | cons k rest =>
      have hret : State.retire (State.emit j (s.setTxns (k :: rest))) = (State.emit j (s.setTxns (k :: rest))).advance :=
        State.retire_cons (i := k) (rest := rest) (by simp)
      exact ih _ hrow (by simp [hret, hb]) (by simp [hret]) (by simp)

/-- An invariant of the moves is kept by every submitted command, at both grains. -/
theorem Moves.perform {P : State → Prop} (h : Moves P) {s : State} {i : Instr} (hs : P s) (hi : i.isCommand = true) :
    P (s.perform i (State.stepZero i)) := by
  rcases perform_cases i s with ⟨r, hp⟩ | ⟨ht, -, hp⟩ | ⟨ht, -, hp⟩
  · rw [hp]; exact h.mark s r hs
  · rw [hp]; exact h.accept s i hs hi ht
  · rw [hp]
    have ha := h.accept s i hs hi ht
    have hw : (s.accept (encodeCmd i)).Within i :=
      (h.sequenced _ ha).within (State.accept_busy ..) (by simpa using readCmd_encodeCmd i hi)
    have hz := h.zero _ i ha (State.accept_busy ..) hw (State.accept_step ..)
    exact h.runTxns _ _ hz (by simp) (by simp) rfl

/-- An invariant of the moves is kept by every step (R16). -/
theorem Moves.step {P : State → Prop} (h : Moves P) {s t : State} (hs : P s) (hst : Machine.step s = .next t) : P t := by
  rcases step_cases hst with ⟨rest, -, -, rfl⟩ | ⟨-, -, rfl⟩ | ⟨a, rest, r, -, -, -, rfl⟩ |
    ⟨a, rest, i, hb, hst, hr, hx⟩ | ⟨i, hb, -, h0, hr, rfl⟩ | ⟨j, rest, u, hb, -, h0, hl, hx, rfl⟩
  · exact h.mark _ _ (h.stream _ _ hs)
  · exact hs
  · exact h.mark _ _ (h.stream _ _ hs)
  · have hi := (encodeCmd_of_readCmd _ _ hr).2
    rw [exec_command i _ hi] at hx
    cases hx
    exact h.perform (h.stream _ rest hs) hi
  · have hs' := h.stream s (tick s.stream) hs
    exact h.zero _ i hs' hb ((h.sequenced _ hs').within hb hr) h0
  · have hs' := h.stream s (tick s.stream) hs
    obtain ⟨i, hi⟩ := (h.sequenced _ hs').exists_within hb
    rw [exec_transaction j _ (isCommand_of_mem_txnsOf (hi.next_row h0 hl).1)] at hx
    cases hx
    exact h.row _ i j rest hs' hb hi h0 hl

/-! ## The sequencer's own invariant -/

/-- A sequenced state stays so while nothing of the block but the stream and the marks moves. -/
theorem State.Sequenced.congr {s t : State} (h : s.Sequenced) (hb : t.busy = s.busy) (hc : t.cmd = s.cmd)
    (hp : t.phase = s.phase) (hm : t.irqMask = s.irqMask) (hs : t.step = s.step) (hl : t.txns = s.txns)
    (hpar : t.par = s.par) : t.Sequenced := by
  cases hbs : s.busy
  · obtain ⟨h0, hn⟩ := h.idle hbs
    exact State.sequenced_of_idle (hb.trans hbs) (hs.trans h0) (hl.trans hn)
  · obtain ⟨i, hi⟩ := h.exists_within hbs
    exact State.sequenced_of_within (hb.trans hbs) (hi.congr hc hp hm hs hl hpar)

/-- An admitted command waits at step 0 with no list (R63). -/
theorem State.within_accept {s : State} {i : Instr} (h : s.Sequenced) (hi : i.isCommand = true)
    (ht : s.turnedAway i = none) : (s.accept (encodeCmd i)).Within i := by
  obtain ⟨hb, hp⟩ := State.turnedAway_none ht
  exact {
    word := readCmd_encodeCmd i hi
    phase := hp
    baseline := fun _ h0 => absurd rfl h0
    list := (h.idle hb).2
    range := Nat.zero_le _ }

/-- Step 0 leads to micro-step 1 with the whole list (R16). -/
theorem State.within_stepZero {s : State} {i : Instr} (h : s.Within i) : (s.stepZero i).Within i := by
  have hi := (encodeCmd_of_readCmd _ _ h.word).2
  exact {
    word := by simpa using h.word
    phase := by simpa using h.phase
    baseline := by rintro rfl -; exact State.stepZero_irqMask ..
    list := by simp
    range := by rw [length_txnsOf, State.stepZero_step]; exact transactionCount_pos hi }

/-- A transaction that is not the last leads to the next micro-step. -/
theorem State.within_advance {s t : State} {i j : Instr} {rest : List Instr} (h : s.Within i) (h0 : s.step ≠ 0)
    (hl : s.txns = j :: rest) (hne : rest ≠ []) (hc : t.cmd = s.cmd) (hp : t.phase = s.phase)
    (hm : t.irqMask = s.irqMask) (hs : t.step = s.step + 1) (ht : t.txns = rest) (hpar : t.par = s.par) :
    t.Within i := by
  obtain ⟨-, hd, hlen⟩ := h.next_row h0 hl
  have hpos := List.length_pos_iff.2 hne
  have htx := txnsOf_congr i hm hpar
  exact {
    word := by rw [hc]; exact h.word
    phase := by rw [hp]; exact h.phase
    baseline := by rw [hm]; exact fun hi _ => h.baseline hi h0
    list := by rw [ht, hs, htx, if_neg (by omega), ← hd]; rfl
    range := by rw [hs, htx]; omega }

/-- A transaction keeps the place: the next micro-step, or idle again (R16). -/
theorem State.sequenced_row {s : State} {i j : Instr} {rest : List Instr} (h : s.Within i) (hb : s.busy = true)
    (h0 : s.step ≠ 0) (hl : s.txns = j :: rest) : (State.retire (State.emit j (s.setTxns rest))).Sequenced := by
  cases rest with
  | nil =>
    rw [State.retire_nil (by simp)]
    exact State.sequenced_of_idle (by simp) (by simp) (by simp)
  | cons k rest =>
    rw [State.retire_cons (i := k) (rest := rest) (by simp)]
    exact State.sequenced_of_within (by simpa using hb)
      (State.within_advance h h0 hl (List.cons_ne_nil _ _) (by simp) (by simp) (by simp) (by simp) (by simp) (by simp))

/-- Every move keeps the sequencer's invariant. -/
theorem sequenced_moves : Moves State.Sequenced where
  sequenced _ h := h
  stream _ _ h := h.congr rfl rfl rfl rfl rfl rfl rfl
  mark _ _ h := h.congr rfl rfl rfl rfl rfl rfl rfl
  accept _ _ h hi ht := State.sequenced_of_within (State.accept_busy ..) (State.within_accept h hi ht)
  zero _ _ _ hb hw _ :=
    State.sequenced_of_within (by simpa using hb) (State.within_stepZero hw)
  row _ _ _ _ _ hb hw h0 hl := State.sequenced_row hw hb h0 hl

end Sys2Proof.Machine

namespace Sys2Proof.Proofs

open Sys2Proof Sys2Proof.Machine Sys2Proof.Claims

/-- Settles O50: every move of a step keeps the place within the command. -/
theorem sequencedKept : Obligations.SequencedKept := fun _ _ hs h => sequenced_moves.step hs h

/-- Settles O49. -/
theorem sequencedAtReset : Obligations.SequencedAtReset := fun _ => State.sequenced_of_idle rfl rfl rfl

/-- Settles O51: no list is longer than INIT's ten writes. -/
theorem sequencedStepAtMostTen : Obligations.SequencedStepAtMostTen := by
  intro s hs
  cases hb : s.busy
  · simp [(hs.idle hb).1]
  · obtain ⟨i, hi⟩ := hs.exists_within hb
    calc s.step ≤ (txnsOf i s).length := hi.range
      _ = transactionCount i := length_txnsOf i s
      _ ≤ 10 := transactionCount_le i

/-- Settles O52: a next move exists in every case of `step`, for the latched word is a command and its list is not used
up before it ends. -/
theorem sequencedNeverStops : Obligations.SequencedNeverStops := by
  intro s hs
  cases hb : s.busy
  · cases hst : s.stream with
    | nil => exact ⟨s, step_ended hb hst⟩
    | cons a rest =>
      cases hr : readCmd a.word with
      | error r => exact ⟨_, step_reserved hb hst hr⟩
      | ok i => rw [step_command hb hst hr]; exact exec_next i _
  · obtain ⟨i, hi⟩ := hs.exists_within hb
    cases hn : s.intruder with
    | some rest => exact ⟨_, step_reentry hn⟩
    | none =>
      by_cases h0 : s.step = 0
      · exact ⟨_, step_zero hb hn h0 hi.word⟩
      · obtain ⟨j, rest, hl⟩ := List.exists_cons_of_ne_nil (hi.txns_ne_nil h0)
        obtain ⟨u, hu⟩ := exec_next j ((s.setStream (tick s.stream)).setTxns rest)
        exact ⟨_, step_transaction hb hn h0 hl hu⟩

end Sys2Proof.Proofs
end

section
/-!
SUPPORT and settled statements: reset, one step, the end of a command, and what each kind of step writes
(spec/10_state.md R12 to R16, spec/30_encoding.md R63).
-/
namespace Sys2Proof.Machine

open Sys2Proof.Claims

/-! ## The masks as R90 and R91 write them -/

theorem bitOf_lineOf (l : Byte) : bitOf (lineOf l) = lineBit l := by
  rw [bitOf, lineOf_toNat, lineBit, lineNo]

theorem enableMask_eq (l : Byte) (m : Half) : enableMask (lineOf l) m = afterEnable l m := by
  simp only [enableMask, afterEnable, slaveSide_lineOf, bitOf_lineOf, decide_eq_true_eq, Config.cascadeBit]

theorem disableMask_eq (l : Byte) (m : Half) : disableMask (lineOf l) m = afterDisable l m := by
  simp only [disableMask, afterDisable, hi, bitOf_lineOf, Config.cascadeBit]

theorem eoiTxns_eq (l : Byte) : eoiTxns l = if 8 ≤ lineNo l then [.eoiS, .eoiM] else [.eoiM] := by
  simp only [eoiTxns, slaveSide_lineOf, decide_eq_true_eq]

theorem readRegTxns_eq (sel : Instr) (o : ReadOrder) :
    readRegTxns sel o = [sel, sel] ++ if o = .masterFirst then [.rdM, .rdS] else [.rdS, .rdM] := by
  cases o <;> rfl

/-! ## What a transaction and the end of a command write -/

/-- A transaction adds one event to the trace at most (R51). -/
theorem State.emit_one_event (i : Instr) (s : State) :
    (s.emit i).trace = s.trace ∨ ∃ e, (s.emit i).trace = s.trace ++ [e] := by
  unfold State.emit
  split
  · exact .inr ⟨_, State.portWrite_trace ..⟩
  · exact .inr ⟨_, State.portRead_trace ..⟩
  · exact .inl rfl

/-- `phase` at the sequencer's advance: it moves at the end of INIT only, and then to Ready (R14, R80). -/
theorem State.retire_phase (s : State) :
    s.retire.phase = s.phase ∨
      (s.retire.phase = .ready ∧ s.retire.busy = false ∧ s.txns = [] ∧ readCmd s.cmd = .ok .init) := by
  cases hl : s.txns with
  | cons i rest => rw [State.retire_cons hl]; exact .inl rfl
  | nil =>
    rw [State.retire_nil hl]
    by_cases hi : readCmd s.cmd = .ok .init
    · exact .inr ⟨by rw [State.complete_init hi]; rfl, rfl, rfl, hi⟩
    · left
      simp only [State.release_phase, State.complete]
      split
      · exact absurd ‹_› hi
      · rfl
      · rfl
      · rfl

/-- `result` at the sequencer's advance: it moves at the end of RDIRR and RDISR only (R15, R112). -/
theorem State.retire_result (s : State) :
    s.retire.result = s.result ∨ (s.txns = [] ∧ ∃ i, (i = .rdirr ∨ i = .rdisr) ∧ readCmd s.cmd = .ok i) := by
  cases hl : s.txns with
  | cons i rest => rw [State.retire_cons hl]; exact .inl rfl
  | nil =>
    rw [State.retire_nil hl]
    simp only [State.release_result, State.complete]
    split <;> rename_i hr
    · exact .inl rfl
    · exact .inr ⟨trivial, _, .inl rfl, hr⟩
    · exact .inr ⟨trivial, _, .inr rfl, hr⟩
    · exact .inl rfl

/-- A change of the mask by step 0 is one of INIT, ENABLE or DISABLE (R12). -/
theorem maskAfter_ne {i : Instr} {m : Half} (h : maskAfter i m ≠ m) :
    i = .init ∨ (∃ l, i = .enable l) ∨ (∃ l, i = .disable l) := by
  cases i
  case init => exact .inl rfl
  case enable l => exact .inr (.inl ⟨l, rfl⟩)
  case disable l => exact .inr (.inr ⟨l, rfl⟩)
  all_goals exact absurd rfl h

/-! ## The kinds of step -/

/-- The five kinds of step: only the stream and the marks move; a submitted command is latched, or at the atomic grain run
whole; step 0; a transaction with the sequencer's advance. A row that is no transaction would leave a mark, `m`; no run
from reset meets one. -/
inductive StepKind (s t : State) : Prop where
  | idle (l : List Submission) (m : List Reject) (h : t = { s with stream := l, refusals := s.refusals ++ m })
  | latch (l : List Submission) (i : Instr) (hb : s.busy = false) (hg : s.par.grain = .microStep)
      (h : t = (s.setStream l).accept (encodeCmd i))
  | whole (a : Submission) (rest : List Submission) (i : Instr) (hb : s.busy = false) (hs : s.stream = a :: rest)
      (hr : readCmd a.word = .ok i) (hg : s.par.grain = .atomic)
      (h : t = State.runTxns ((s.setStream rest).started i).txns ((s.setStream rest).started i))
  | zero (i : Instr) (hb : s.busy = true) (h0 : s.step = 0) (hr : readCmd s.cmd = .ok i)
      (h : t = State.stepZero i (s.setStream (tick s.stream)))
  | row (j : Instr) (rest : List Instr) (m : List Reject) (u : State) (hb : s.busy = true) (h0 : s.step ≠ 0)
      (hl : s.txns = j :: rest) (hu : u = ((s.setStream (tick s.stream)).setTxns rest).emit j)
      (h : t = State.retire { u with refusals := u.refusals ++ m })

/-- Every step is of one of the five kinds. -/
theorem step_kind {s t : State} (h : step s = .next t) : StepKind s t := by
  rcases step_cases h with ⟨rest, -, -, rfl⟩ | ⟨-, -, rfl⟩ | ⟨a, rest, r, -, -, -, rfl⟩ |
    ⟨a, rest, i, hb, hs, hr, hx⟩ | ⟨i, hb, -, h0, hr, rfl⟩ | ⟨j, rest, u, hb, -, h0, hl, hx, rfl⟩
  · exact .idle rest [.reentry] rfl
  · exact .idle t.stream [] (by simp)
  · exact .idle rest [r] rfl
  · rw [exec_command i _ (encodeCmd_of_readCmd _ _ hr).2] at hx
    cases hx
    rcases perform_cases i (s.setStream rest) with ⟨r, hp⟩ | ⟨-, hg, hp⟩ | ⟨-, hg, hp⟩
    · exact .idle rest [r] hp
    · exact .latch rest i hb hg hp
    · exact .whole a rest i hb hs hr hg hp
  · exact .zero i hb h0 hr rfl
  · cases hc : j.isCommand
    · rw [exec_transaction j _ hc] at hx
      cases hx
      exact .row j rest [] _ hb h0 hl rfl (by rw [List.append_nil])
    · rw [exec_command j _ hc, State.perform_turnedAway _ (State.turnedAway_busy (by simpa using hb))] at hx
      cases hx
      exact .row j rest [.reentry] _ hb h0 hl rfl (by rw [State.emit_command hc]; rfl)

end Sys2Proof.Machine

namespace Sys2Proof.Proofs

open Sys2Proof Sys2Proof.Machine Sys2Proof.Claims

/-! ## Reset -/

/-- Settles O1. -/
theorem phaseAtReset : Obligations.PhaseAtReset := fun _ => rfl

/-- Settles O2. -/
theorem resetValues : Obligations.ResetValues := ⟨fun _ => rfl, rfl, rfl, rfl, rfl, rfl, rfl⟩

/-! ## One step -/

/-- Settles O7. -/
theorem stepRunsSubmittedCommand : Obligations.StepRunsSubmittedCommand := by
  intro s a rest i hb hs
  refine ⟨fun hr => step_command hb hs hr, fun hd => ?_⟩
  unfold decodeCmd at hd
  split at hd
  · rename_i j hj
    split_ifs at hd
    rw [hj]; exact hd
  · cases hd

/-- Settles O8. -/
theorem stepRunsTransaction : Obligations.StepRunsTransaction :=
  fun _ _ _ hb h0 hl hu _ hx => step_transaction hb (State.intruder_undisturbed hu) h0 hl hx

/-- Settles O9: the latched word tells which of the three ends it is. -/
theorem retireAdvancesOrEnds : Obligations.RetireAdvancesOrEnds := by
  intro s
  constructor
  · intro hne
    obtain ⟨i, rest, hl⟩ := List.exists_cons_of_ne_nil hne
    exact State.retire_cons hl
  · intro hl
    rw [State.retire_nil hl]
    refine ⟨fun hc => ?_, fun hc => ?_, fun h1 h5 h6 => ?_⟩
    · rw [State.complete_init (by rw [hc]; exact readCmd_init)]; rfl
    · have hr : ∃ i, readCmd s.cmd = .ok i ∧ (i = .rdirr ∨ i = .rdisr) := by
        rcases hc with hc | hc <;> rw [hc]
        · exact ⟨_, readCmd_rdirr, .inl rfl⟩
        · exact ⟨_, readCmd_rdisr, .inr rfl⟩
      obtain ⟨i, hr, hi⟩ := hr
      rw [State.complete_read hr hi]; rfl
    · rw [State.complete_other]
      · rfl
      · intro i hr
        have hw := (encodeCmd_of_readCmd _ _ hr).1
        refine ⟨?_, ?_, ?_⟩ <;> rintro rfl
        · exact h1 hw.symm
        · exact h5 hw.symm
        · exact h6 hw.symm

/-- Settles O10: the step is step 0 of the command the word reads as, and each command's mask and list are the rule's. -/
theorem stepZeroComputesMask : Obligations.StepZeroComputesMask := by
  intro s hb h0 hu
  have hstep : ∀ i, readCmd s.cmd = .ok i → step s = .next (State.stepZero i (s.setStream (tick s.stream))) :=
    fun i hr => step_zero hb (State.intruder_undisturbed hu) h0 hr
  refine ⟨fun hc => ?_, fun l hc => ?_, fun l hc => ?_, fun l hc => ?_, fun hc => ?_, fun hc => ?_⟩
  · exact hstep .init (by rw [hc]; exact readCmd_init)
  · refine ⟨_, rfl, ?_⟩
    rw [hstep (.enable l) (by rw [hc]; exact readCmd_enable l), ← enableMask_eq]; rfl
  · refine ⟨_, rfl, ?_⟩
    rw [hstep (.disable l) (by rw [hc]; exact readCmd_disable l), ← disableMask_eq]; rfl
  · rw [hstep (.eoi l) (by rw [hc]; exact readCmd_eoi l), ← eoiTxns_eq]; rfl
  · rw [hstep .rdirr (by rw [hc]; exact readCmd_rdirr), ← readRegTxns_eq]; rfl
  · rw [hstep .rdisr (by rw [hc]; exact readCmd_rdisr), ← readRegTxns_eq]; rfl

/-- Settles O14: an admitted command at the micro-step grain is latched, and no more. -/
theorem commandsAcceptedAtMicroGrain : Obligations.CommandsAcceptedAtMicroGrain := by
  intro s hb hg
  have hacc : ∀ i, i.isCommand = true → s.turnedAway i = none → exec i s = .next (s.accept (encodeCmd i)) := by
    intro i hi ht
    rw [exec_command i s hi, State.perform_micro _ ht hg]
  refine ⟨fun hp => hacc .init rfl (State.turnedAway_init hb hp), fun hp => ?_⟩
  have hready : ∀ i, i.isCommand = true → i ≠ .init → (∀ l, i.line? = some l → LineOk s l) →
      exec i s = .next (s.accept (encodeCmd i)) :=
    fun i hi hne hl => hacc i hi (State.turnedAway_ready hb hp hne hl)
  refine ⟨fun l hl => ?_, hready .rdirr rfl (by decide) (by simp [Instr.line?]),
    hready .rdisr rfl (by decide) (by simp [Instr.line?])⟩
  have hline : ∀ k, some l = some k → LineOk s k := by rintro k ⟨⟩; exact hl
  exact ⟨hready (.enable l) rfl (by simp) hline, hready (.disable l) rfl (by simp) hline,
    hready (.eoi l) rfl (by simp) hline⟩

/-! ## What only some steps write -/

/-- Settles O28: of the five kinds of step only step 0 and the whole command store a mask. -/
theorem maskWrittenByThreeOperations : Obligations.MaskWrittenByThreeOperations := by
  intro s t h hne
  cases step_kind h with
  | idle l m ht => subst ht; exact absurd rfl hne
  | latch l i hb hg ht => subst ht; exact absurd rfl hne
  | whole a rest i hb hs hr hg ht =>
    subst ht
    exact ⟨i, maskAfter_ne (by simpa using hne), .inr ⟨hb, hg, a, rest, hs, hr⟩⟩
  | zero i hb h0 hr ht =>
    subst ht
    exact ⟨i, maskAfter_ne (by simpa using hne), .inl ⟨hb, h0, hr⟩⟩
  | row j rest m u hb h0 hl hu ht => subst hu ht; simp at hne

/-- Settles O29: `result` moves where a list ends, and only under RDIRR or RDISR. -/
theorem resultWrittenByReadsOnly : Obligations.ResultWrittenByReadsOnly := by
  intro s t h hne
  cases step_kind h with
  | idle l m ht => subst ht; exact absurd rfl hne
  | latch l i hb hg ht => subst ht; exact absurd rfl hne
  | whole a rest i hb hs hr hg ht =>
    subst ht
    have hcmd := State.readCmd_started (s.setStream rest) (encodeCmd_of_readCmd _ _ hr).2
    have hi : i = .rdirr ∨ i = .rdisr := by
      by_contra hi
      obtain ⟨h1, h2⟩ := not_or.1 hi
      rw [State.runTxns_result _ _ (by rw [hcmd]; exact ⟨fun e => h1 (Except.ok.inj e), fun e => h2 (Except.ok.inj e)⟩)]
        at hne
      exact hne (by simp)
    exact ⟨i, hi, .inr ⟨hb, hg, a, rest, hs, hr⟩⟩
  | zero i hb h0 hr ht => subst ht; simp at hne
  | row j rest m u hb h0 hl hu ht =>
    subst hu ht
    rcases State.retire_result _ with hk | ⟨hn, i, hi, hr⟩
    · exact absurd (hk.trans (by simp)) hne
    · have hrest : rest = [] := by simpa using hn
      exact ⟨i, hi, .inl ⟨hb, h0, by simp [hl, hrest], by simpa using hr⟩⟩

/-- Settles O30: `phase` moves where a list ends, and only under INIT. -/
theorem phaseWrittenByInitOnly : Obligations.PhaseWrittenByInitOnly := by
  intro s t h hne
  cases step_kind h with
  | idle l m ht => subst ht; exact absurd rfl hne
  | latch l i hb hg ht => subst ht; exact absurd rfl hne
  | whole a rest i hb hs hr hg ht =>
    subst ht
    have hc := (encodeCmd_of_readCmd _ _ hr).2
    have hl := State.started_txns_ne_nil (s.setStream rest) hc
    have hph := State.runTxns_phase _ ((s.setStream rest).started i) hl
    rw [State.readCmd_started _ hc] at hph
    have hi : i = .init := by
      by_contra hi
      rw [if_neg (fun e => hi (Except.ok.inj e))] at hph
      exact hne (hph.trans (by simp))
    subst hi
    exact ⟨by rw [hph, if_pos rfl], (State.runTxns_ends _ _ hl).1, .inr ⟨hb, hg, a, rest, hs, hr⟩⟩
  | zero i hb h0 hr ht => subst ht; simp at hne
  | row j rest m u hb h0 hl hu ht =>
    subst hu ht
    rcases State.retire_phase _ with hk | ⟨hp, hbt, hn, hr⟩
    · exact absurd (hk.trans (by simp)) hne
    · have hrest : rest = [] := by simpa using hn
      exact ⟨hp, hbt, .inl ⟨hb, h0, by simp [hl, hrest], by simpa using hr⟩⟩

/-- Settles O57: the fields of each kind of step. -/
theorem readyTraceAndMarksPersist : Obligations.ReadyTraceAndMarksPersist := by
  intro s t h
  refine ⟨fun hp => ?_, ?_⟩
  · by_contra hne
    exact hne (phaseWrittenByInitOnly s t h (by rw [hp]; exact hne)).1
  cases step_kind h with
  | idle l m ht => subst ht; exact ⟨rfl, ⟨[], by simp⟩, m, rfl⟩
  | latch l i hb hg ht => subst ht; exact ⟨rfl, ⟨[], by simp⟩, [], by simp⟩
  | whole a rest i hb hs hr hg ht =>
    subst ht
    obtain ⟨e, he⟩ := State.runTxns_trace ((s.setStream rest).started i).txns
      ((s.setStream rest).started i)
    exact ⟨by simp, ⟨e, he.trans (by simp)⟩, [], by simp⟩
  | zero i hb h0 hr ht =>
    subst ht; exact ⟨by simp, ⟨[], by simp⟩, [], by simp⟩
  | row j rest m u hb h0 hl hu ht =>
    subst hu ht
    obtain ⟨e, he⟩ := State.emit_trace j ((s.setStream (tick s.stream)).setTxns rest)
    exact ⟨by simp, ⟨e, by simp [he]⟩, m, by simp⟩

/-- Settles O58: only a step of the kind `row` emits at the micro-step grain, and it emits one event. -/
theorem oneTransactionAMicroStep : Obligations.OneTransactionAMicroStep := by
  intro s t h hg
  cases step_kind h with
  | idle l m ht => subst ht; exact ⟨.inl rfl, fun _ => rfl⟩
  | latch l i hb _ ht => subst ht; exact ⟨.inl rfl, fun _ => rfl⟩
  | whole a rest i hb hs hr hga ht => rw [hg] at hga; cases hga
  | zero i hb h0 hr ht => subst ht; simp
  | row j rest m u hb h0 hl hu ht =>
    subst hu ht
    refine ⟨?_, fun hc => ?_⟩
    · simpa using State.emit_one_event j ((s.setStream (tick s.stream)).setTxns rest)
    · rw [hb] at hc; simp [h0] at hc

end Sys2Proof.Proofs
end

section
/-!
SUPPORT and settled statements: what a port-transaction row does to the two chips (spec/10_state.md R19 to R23,
spec/20_memory.md R41, R48, R49), and what it leaves of a chip's configuration.
-/
namespace Sys2Proof.Machine

open Sys2Proof.Claims

/-! ## Rows and their ports -/

/-- The opcode table's write rows are the port operations of the model (R66, R67, R82). -/
theorem portOp_of_rowWriteOn {ports : IcwPorts} {i : Instr} {p : Port} {v : Byte}
    (h : rowWriteOn ports i = some (p, v)) : portOp ports i = some (.write p v) := by
  cases ports <;> cases i <;> simp [rowWriteOn, rowWrite, Instr.atIcwPosition] at h <;> obtain ⟨rfl, rfl⟩ := h <;> rfl

/-- Only a port transaction has a port operation. -/
theorem isCommand_of_portOp {ports : IcwPorts} {i : Instr} {op : PortOp} (h : portOp ports i = some op) :
    i.isCommand = false := by
  by_contra hi
  rw [(portOp_eq_none_iff ports i).2 (by simpa using hi)] at h
  cases h

/-- A row that writes is `PortWrite` of its port and byte (R42). -/
theorem exec_write {s : State} {i : Instr} {p : Port} {v : Byte}
    (h : portOp s.par.icwPorts i = some (.write p v)) : exec i s = .next (s.portWrite p v) := by
  rw [exec_transaction i s (isCommand_of_portOp h), State.emit_write h]

/-- A row that reads is `PortRead` of its port (R43). -/
theorem exec_read {s : State} {i : Instr} {p : Port}
    (h : portOp s.par.icwPorts i = some (.read p)) : exec i s = .next (s.portRead p) := by
  rw [exec_transaction i s (isCommand_of_portOp h), State.emit_read h]

/-- The three positions of a sequence at the data port (R20, R23). -/
theorem takeData_next_icw (free : Chip) (v : Byte) (c : Chip) :
    (c.icwStep = 3 → takeData .split free v c = { c with vbase := v, icwStep := 2 }) ∧
    (c.icwStep = 2 → takeData .split free v c = { c with cascade := v, icwStep := 1 }) ∧
    (c.icwStep = 1 → takeData .split free v c = { c with mode := v, icwStep := 0 }) := by
  refine ⟨fun h => ?_, fun h => ?_, fun h => ?_⟩
  · rw [takeData_icw free v (by simp [h]), takeIcw_icw2 v h]
  · rw [takeData_icw free v (by simp [h]), takeIcw_icw3 v h]
  · rw [takeData_icw free v (by simp [h]), takeIcw_icw4 v h]

/-- The responder's answer to a read of the master's command port (R21, R49). -/
theorem State.readByte_masterCmd {s : State} (hr : s.par.responder = true) (hc : s.par.chipsPresent = true)
    (ha : s.answers = []) :
    s.readByte Config.masterCmd = (selected s.master).getD (Config.draw8 s.draws) := by
  have hb : s.responderByte Config.masterCmd = selected s.master := by simp [State.responderByte, hr, hc]
  simp only [State.readByte, ha, hb]
  cases selected s.master <;> rfl

/-- The responder's answer to a read of the slave's command port. -/
theorem State.readByte_slaveCmd {s : State} (hr : s.par.responder = true) (hc : s.par.chipsPresent = true)
    (ha : s.answers = []) :
    s.readByte Config.slaveCmd = (selected s.slave).getD (Config.draw8 s.draws) := by
  have hb : s.responderByte Config.slaveCmd = selected s.slave := by
    simp [State.responderByte, hr, hc, Config.masterCmd, Config.slaveCmd]
  simp only [State.readByte, ha, hb]
  cases selected s.slave <;> rfl

/-- A mask byte at the master, outside a sequence (R19). -/
theorem State.emit_maskM {s : State} (v : Byte) (hc : s.par.chipsPresent = true) (h0 : s.master.icwStep = 0) :
    (s.emit (.maskM v)).master = { s.environment.master with imr := v } ∧
      (s.emit (.maskM v)).slave = s.environment.slave := by
  obtain ⟨hm, hs⟩ := State.portWrite_masterData v hc
  exact ⟨hm.trans (takeData_mask _ _ v (by simpa using h0)), hs⟩

/-- A mask byte at the slave, outside a sequence. -/
theorem State.emit_maskS {s : State} (v : Byte) (hc : s.par.chipsPresent = true) (h0 : s.slave.icwStep = 0) :
    (s.emit (.maskS v)).slave = { s.environment.slave with imr := v } ∧
      (s.emit (.maskS v)).master = s.environment.master := by
  obtain ⟨hs, hm⟩ := State.portWrite_slaveData v hc
  exact ⟨hs.trans (takeData_mask _ _ v (by simpa using h0)), hm⟩

end Sys2Proof.Machine

namespace Sys2Proof.Proofs

open Sys2Proof Sys2Proof.Machine Sys2Proof.Claims

/-- Settles O40: the three branches of the move, each with its own values. -/
theorem environmentMovesRequestsOnly : Obligations.EnvironmentMovesRequestsOnly := by
  intro s
  unfold State.environment
  split
  · split
    · exact ⟨_, _, _, _, _, _, rfl⟩
    · exact ⟨_, _, _, _, _, _, rfl⟩
  · exact ⟨_, _, _, _, _, _, rfl⟩

/-- Settles O37: a byte at a data port outside a sequence is a mask. -/
theorem maskRowReplacesMaskRegister : Obligations.MaskRowReplacesMaskRegister :=
  fun _ v hc => ⟨fun h0 => ⟨_, exec_transaction _ _ rfl, State.emit_maskM v hc h0⟩,
    fun h0 => ⟨_, exec_transaction _ _ rfl, State.emit_maskS v hc h0⟩⟩

/-- Settles O38: ICW1 is recognised before anything else. -/
theorem icw1RowBeginsSequence : Obligations.Icw1RowBeginsSequence := by
  intro s hc
  refine ⟨⟨_, exec_write rfl, ?_⟩, ⟨_, exec_write rfl, ?_⟩⟩
  · obtain ⟨hm, hs⟩ := State.portWrite_masterCmd Config.icw1 hc
    exact ⟨by rw [hm, takeCommand_icw1], hs⟩
  · obtain ⟨hs, hm⟩ := State.portWrite_slaveCmd Config.icw1 hc
    exact ⟨by rw [hs, takeCommand_icw1], hm⟩

/-- Settles O43: the selector bytes at the master; and the slave's command port is written by ICW1 and EOI only. -/
theorem selectorRowsSelect : Obligations.SelectorRowsSelect := by
  refine ⟨fun s hc h0 => ⟨⟨_, exec_write rfl, ?_⟩, ⟨_, exec_write rfl, ?_⟩⟩, fun ports i v h => ?_⟩
  · obtain ⟨hm, hs⟩ := State.portWrite_masterCmd Config.selectIrr hc
    exact ⟨hm.trans (takeCommand_selectIrr _ _ (by simpa using h0)), hs⟩
  · obtain ⟨hm, hs⟩ := State.portWrite_masterCmd Config.selectIsr hc
    exact ⟨hm.trans (takeCommand_selectIsr _ _ (by simpa using h0)), hs⟩
  · have hv : v = 0x11 ∨ v = 0x20 ∨ v = 0x28 ∨ v = 0x02 ∨ v = 0x01 := by
      cases ports <;> cases i <;>
        simp [portOp, icwPort, Config.masterCmd, Config.masterData, Config.slaveCmd, Config.slaveData, Config.icw1,
          Config.eoiByte, Config.icw2Slave, Config.icw3Slave, Config.icw4Slave] at h <;> simp [← h]
    rcases hv with rfl | rfl | rfl | rfl | rfl <;> decide

/-- Settles O39: inside a sequence the data port takes the next ICW, told by the position alone. -/
theorem byteInSequenceIsIcw : Obligations.ByteInSequenceIsIcw := by
  intro s i p v hc hsp hrow
  refine ⟨_, exec_write (portOp_of_rowWriteOn hrow), ?_, ?_⟩
  · rintro rfl
    have hchip : (s.portWrite 0x0021 v).master = _ := (State.portWrite_masterData v hc).1
    rw [hchip, hsp, ← State.environment_master_icwStep]
    exact takeData_next_icw _ v _
  · rintro rfl
    have hchip : (s.portWrite 0x00A1 v).slave = _ := (State.portWrite_slaveData v hc).1
    rw [hchip, hsp, ← State.environment_slave_icwStep]
    exact takeData_next_icw _ v _

/-- Settles O35: the environment's move leaves the selector, so the answer is the register selected before it. -/
theorem responderAnswersSelectedRegister : Obligations.ResponderAnswersSelectedRegister := by
  intro s hr hc ha
  refine ⟨⟨_, exec_read rfl, ?_⟩, ⟨_, exec_read rfl, ?_⟩⟩
  · rw [State.portRead_readM, if_pos rfl,
      State.readByte_masterCmd (by simpa using hr) (by simpa using hc) (by simpa using ha)]
    cases hs : s.master.rsel <;> simp [selected, hs]
  · rw [State.portRead_readS, if_pos rfl,
      State.readByte_slaveCmd (by simpa using hr) (by simpa using hc) (by simpa using ha)]
    cases hs : s.slave.rsel <;> simp [selected, hs]

end Sys2Proof.Proofs
end

section
/-!
SUPPORT and settled statements: what a transaction leaves of a chip's configuration (mask register, sequence position,
vector base, cascade byte, mode), and with it INIT's effect on the chips and mirror coherence as an invariant
(spec/10_state.md R19 to R24, spec/40_init.md R88, spec/70_reset_and_hazards.md R146).
-/
namespace Sys2Proof.Machine

open Sys2Proof.Claims

/-! ## The configuration of a chip -/

/-- What the environment, an end-of-interrupt byte, a selector and a read leave of a chip (R23, R107). -/
structure ChipConfig where
  imr : Byte
  icwStep : Fin 4
  vbase : Byte
  cascade : Byte
  mode : Byte

/-- The configuration a chip holds. -/
def chipConfig (c : Chip) : ChipConfig := ⟨c.imr, c.icwStep, c.vbase, c.cascade, c.mode⟩

/-- A byte at the data port: the mask, or the next ICW (R19, R20, R23). -/
def ChipConfig.take (v : Byte) (g : ChipConfig) : ChipConfig :=
  match g.icwStep with
  | 0 => { g with imr := v }
  | 1 => { g with mode := v, icwStep := 0 }
  | 2 => { g with cascade := v, icwStep := 1 }
  | 3 => { g with vbase := v, icwStep := 2 }

@[simp] theorem chipConfig_imr (c : Chip) : (chipConfig c).imr = c.imr := rfl
@[simp] theorem chipConfig_icwStep (c : Chip) : (chipConfig c).icwStep = c.icwStep := rfl

theorem chipConfig_eq_iff {c d : Chip} : chipConfig d = chipConfig c ↔ ConfigKept c d := by
  constructor
  · intro h
    exact ⟨congrArg ChipConfig.imr h, congrArg ChipConfig.icwStep h, congrArg ChipConfig.vbase h,
      congrArg ChipConfig.cascade h, congrArg ChipConfig.mode h⟩
  · rintro ⟨h1, h2, h3, h4, h5⟩
    rw [chipConfig, chipConfig, h1, h2, h3, h4, h5]

/-- Each byte at the data port leaves one fewer to come. -/
theorem ChipConfig.take_icwStep (v : Byte) (g : ChipConfig) : (g.take v).icwStep.val = g.icwStep.val - 1 := by
  unfold ChipConfig.take
  split <;> rename_i h <;> simp [h]

theorem ChipConfig.take_mask (v : Byte) {g : ChipConfig} (h : g.icwStep = 0) : (g.take v).imr = v := by
  simp only [ChipConfig.take, h]

/-- `takeData` moves the configuration alone, as `take` says (D1). -/
theorem chipConfig_takeData (free : Chip) (v : Byte) (c : Chip) :
    chipConfig (takeData .split free v c) = (chipConfig c).take v := by
  obtain ⟨h3, h2, h1⟩ := takeData_next_icw free v c
  unfold ChipConfig.take
  split <;> rename_i h <;> rw [chipConfig_icwStep] at h
  · rw [takeData_mask .split free v h]; rfl
  · rw [h1 h]; rfl
  · rw [h2 h]; rfl
  · rw [h3 h]; rfl

@[simp] theorem chipConfig_environment_master (s : State) :
    chipConfig s.environment.master = chipConfig s.master :=
  chipConfig_eq_iff.2 ⟨by simp, by simp, by simp, by simp, by simp⟩

@[simp] theorem chipConfig_environment_slave (s : State) : chipConfig s.environment.slave = chipConfig s.slave :=
  chipConfig_eq_iff.2 ⟨by simp, by simp, by simp, by simp, by simp⟩

/-! ## A transaction and the configurations -/

/-- The chips exist and take ICW2 to ICW4 on their data ports (D1, R50). -/
def State.Split (s : State) : Prop := s.par.chipsPresent = true ∧ s.par.icwPorts = .split

/-- A byte to the master's data port. -/
theorem State.emit_masterData {s : State} {j : Instr} {v : Byte} (h : s.Split)
    (hj : portOp .split j = some (.write Config.masterData v)) :
    chipConfig (s.emit j).master = (chipConfig s.master).take v ∧ chipConfig (s.emit j).slave = chipConfig s.slave := by
  obtain ⟨hc, hp⟩ := h
  rw [State.emit_write (by rw [hp]; exact hj)]
  obtain ⟨hm, hs⟩ := State.portWrite_masterData v hc
  rw [hm, hs, hp, chipConfig_takeData]
  simp

/-- A byte to the slave's data port. -/
theorem State.emit_slaveData {s : State} {j : Instr} {v : Byte} (h : s.Split)
    (hj : portOp .split j = some (.write Config.slaveData v)) :
    chipConfig (s.emit j).slave = (chipConfig s.slave).take v ∧ chipConfig (s.emit j).master = chipConfig s.master := by
  obtain ⟨hc, hp⟩ := h
  rw [State.emit_write (by rw [hp]; exact hj)]
  obtain ⟨hs, hm⟩ := State.portWrite_slaveData v hc
  rw [hm, hs, hp, chipConfig_takeData]
  simp

theorem State.emit_icw1M {s : State} (h : s.Split) :
    (s.emit .icw1M).master.icwStep = 3 ∧ chipConfig (s.emit .icw1M).slave = chipConfig s.slave := by
  obtain ⟨hm, hs⟩ := State.portWrite_masterCmd Config.icw1 h.1
  rw [State.emit_write (p := Config.masterCmd) (v := Config.icw1) rfl, hm, hs, takeCommand_icw1]
  simp

theorem State.emit_icw1S {s : State} (h : s.Split) :
    (s.emit .icw1S).slave.icwStep = 3 ∧ chipConfig (s.emit .icw1S).master = chipConfig s.master := by
  obtain ⟨hs, hm⟩ := State.portWrite_slaveCmd Config.icw1 h.1
  rw [State.emit_write (p := Config.slaveCmd) (v := Config.icw1) rfl, hm, hs, takeCommand_icw1]
  simp

/-- Neither chip's configuration moved. -/
def ConfigsKept (s t : State) : Prop :=
  chipConfig t.master = chipConfig s.master ∧ chipConfig t.slave = chipConfig s.slave

/-- A selector or an end-of-interrupt byte outside a sequence leaves the configuration (R21, R107). -/
theorem chipConfig_takeCommand (free acked : Chip) {v : Byte} {c : Chip} (h : c.icwStep = 0)
    (hv : v = Config.selectIrr ∨ v = Config.selectIsr ∨ v = Config.eoiByte) (ha : chipConfig acked = chipConfig c) :
    chipConfig (takeCommand free acked v c) = chipConfig c := by
  rcases hv with rfl | rfl | rfl
  · rw [takeCommand_selectIrr free acked h]; rfl
  · rw [takeCommand_selectIsr free acked h]; rfl
  · rw [takeCommand_eoi free acked h, ha]

/-- Such a byte to the master's command port. -/
theorem State.configsKept_masterCmd {s : State} {v : Byte} (h : s.master.icwStep = 0)
    (hv : v = Config.selectIrr ∨ v = Config.selectIsr ∨ v = Config.eoiByte) :
    ConfigsKept s (s.portWrite Config.masterCmd v) := by
  cases hc : s.par.chipsPresent
  · simp [ConfigsKept, State.environment_absent hc, State.chipsTake_absent _ _ hc]
  · obtain ⟨hm, hs⟩ := State.portWrite_masterCmd v hc
    refine ⟨?_, by rw [hs]; simp⟩
    rw [hm, ← chipConfig_environment_master]
    exact chipConfig_takeCommand _ _ (by simpa using h) hv rfl

/-- Such a byte to the slave's command port. -/
theorem State.configsKept_slaveCmd {s : State} {v : Byte} (h : s.slave.icwStep = 0)
    (hv : v = Config.selectIrr ∨ v = Config.selectIsr ∨ v = Config.eoiByte) :
    ConfigsKept s (s.portWrite Config.slaveCmd v) := by
  cases hc : s.par.chipsPresent
  · simp [ConfigsKept, State.environment_absent hc, State.chipsTake_absent _ _ hc]
  · obtain ⟨hs, hm⟩ := State.portWrite_slaveCmd v hc
    refine ⟨by rw [hm]; simp, ?_⟩
    rw [hs, ← chipConfig_environment_slave]
    exact chipConfig_takeCommand _ _ (by simpa using h) hv rfl

/-- A read moves selectors at most (U5). -/
theorem State.configsKept_portRead (p : Port) (s : State) : ConfigsKept s (s.portRead p) := by
  rw [ConfigsKept, State.portRead_master, State.portRead_slave, State.chipsAnswer]
  split_ifs
  all_goals
    constructor
    · exact chipConfig_environment_master s
    · exact chipConfig_environment_slave s

/-- The rows of EOI, RDIRR and RDISR leave both configurations, outside a sequence (R107, R110 to R112). -/
theorem State.configsKept_quietRow {s : State} {j : Instr} (hm : s.master.icwStep = 0) (hs : s.slave.icwStep = 0)
    (hj : quietRow j = true) : ConfigsKept s (s.emit j) := by
  cases j
  case eoiS => exact State.configsKept_slaveCmd hs (.inr (.inr rfl))
  case eoiM => exact State.configsKept_masterCmd hm (.inr (.inr rfl))
  case selIrr => exact State.configsKept_masterCmd hm (.inl rfl)
  case selIsr => exact State.configsKept_masterCmd hm (.inr (.inl rfl))
  case rdM => exact State.configsKept_portRead _ s
  case rdS => exact State.configsKept_portRead _ s
  all_goals cases hj

/-! ## Mirror coherence -/

/-- Coherent mask registers and positions, for configurations kept. -/
theorem State.Mirrors.congr {s t : State} (h : s.Mirrors) (hk : ConfigsKept s t) (hm : t.irqMask = s.irqMask) :
    t.Mirrors := by
  obtain ⟨hM, hS⟩ := hk
  obtain ⟨h1, h2, h3, h4⟩ := h
  have hM := chipConfig_eq_iff.1 hM
  have hS := chipConfig_eq_iff.1 hS
  exact ⟨hM.icwStep.trans h1, hS.icwStep.trans h2, by rw [hM.imr, hm, h3], by rw [hS.imr, hm, h4]⟩

/-- What coherence asks of the chips before micro-step `k` of the command `i`. -/
def State.Progress (i : Instr) (k : Nat) (s : State) : Prop :=
  match i with
  | .init => s.InitProgress k
  | .enable _ => s.FlushProgress k
  | .disable _ => s.FlushProgress k
  | _ => s.Mirrors

/-- What coherence asks of the chips: the command's progress while busy, the mirror when idle and Ready. -/
def State.ChipsAgree (s : State) : Prop :=
  (s.busy = true → ∀ i, readCmd s.cmd = .ok i → s.Progress i s.step) ∧
    (s.busy = false → s.phase = .ready → s.Mirrors)

theorem State.coherent_iff {s : State} : s.Coherent ↔ s.Sequenced ∧ (s.Split → s.ChipsAgree) := by
  rw [State.Coherent]
  refine and_congr_right fun _ => ?_
  cases hb : s.busy
  · rw [if_neg (by decide)]
    refine ⟨fun h hs => ⟨fun hbt => ?_, fun _ => h hs.1 hs.2⟩, fun h hc hp => (h ⟨hc, hp⟩).2 hb⟩
    rw [hb] at hbt; cases hbt
  · rw [if_pos rfl]
    refine ⟨fun h hs => ⟨fun _ i hr => ?_, fun hbf => ?_⟩, fun h hc hp i hr => ?_⟩
    · have := h hs.1 hs.2 i hr
      cases i <;> exact this
    · rw [hb] at hbf; cases hbf
    · have := (h ⟨hc, hp⟩).1 hb i hr
      cases i <;> exact this

end Sys2Proof.Machine
end

section
/-!
SUPPORT and settled statement: every move of the sequencer keeps the chips in step with the mask (spec/10_state.md R24,
spec/40_init.md R88, spec/70_reset_and_hazards.md R146).
-/
namespace Sys2Proof.Machine

open Sys2Proof.Claims

/-! ## Coherence looks at the configurations and the mask alone -/

theorem State.InitProgress.congr {s t : State} {k : Nat} (h : s.InitProgress k) (hk : ConfigsKept s t)
    (hm : t.irqMask = s.irqMask) : t.InitProgress k := by
  have hM := chipConfig_eq_iff.1 hk.1
  have hS := chipConfig_eq_iff.1 hk.2
  exact ⟨fun h2 => by rw [hM.icwStep]; exact h.masterSeq h2, fun h6 => by rw [hS.icwStep]; exact h.slaveSeq h6,
    fun h10 => by rw [hM.imr, hm]; exact h.masterMask h10⟩

theorem State.FlushProgress.congr {s t : State} {k : Nat} (h : s.FlushProgress k) (hk : ConfigsKept s t)
    (hm : t.irqMask = s.irqMask) : t.FlushProgress k := by
  have hM := chipConfig_eq_iff.1 hk.1
  have hS := chipConfig_eq_iff.1 hk.2
  exact ⟨hM.icwStep.trans h.masterSeq, hS.icwStep.trans h.slaveSeq,
    fun h1 => by rw [hM.imr, hm]; exact h.masterMask h1, fun h0 => by rw [hS.imr, hm]; exact h.slaveMask h0⟩

theorem State.Progress.congr {s t : State} {i : Instr} {k : Nat} (h : s.Progress i k) (hk : ConfigsKept s t)
    (hm : t.irqMask = s.irqMask) : t.Progress i k := by
  cases i
  case init => exact State.InitProgress.congr h hk hm
  case enable l => exact State.FlushProgress.congr h hk hm
  case disable l => exact State.FlushProgress.congr h hk hm
  all_goals exact State.Mirrors.congr h hk hm

/-- Chips and block unmoved but for the stream and the marks: coherence stays. -/
theorem State.Coherent.congr {s t : State} (h : s.Coherent) (hst : t.Sequenced) (hb : t.busy = s.busy)
    (hc : t.cmd = s.cmd) (hp : t.phase = s.phase) (hm : t.irqMask = s.irqMask) (hs : t.step = s.step)
    (hpar : t.par = s.par) (hk : ConfigsKept s t) : t.Coherent := by
  obtain ⟨-, hch⟩ := State.coherent_iff.1 h
  refine State.coherent_iff.2 ⟨hst, fun hsp => ?_⟩
  obtain ⟨hbusy, hidle⟩ := hch (by rwa [State.Split, hpar] at hsp)
  refine ⟨fun hbt i hr => ?_, fun hbt hpt => ?_⟩
  · rw [hs]; exact (hbusy (hb ▸ hbt) i (hc ▸ hr)).congr hk hm
  · exact (hidle (hb ▸ hbt) (hp ▸ hpt)).congr hk hm

/-! ## Admission and step 0 -/

/-- A whole mirror is what every command but INIT starts from. -/
theorem State.Mirrors.progress_zero {s : State} {i : Instr} (h : s.Mirrors) (hi : i ≠ .init) : s.Progress i 0 := by
  have hf : s.FlushProgress 0 := ⟨h.masterSeq, h.slaveSeq, fun _ => h.masterMask, fun _ => h.slaveMask⟩
  cases i
  case init => exact absurd rfl hi
  case enable l => exact hf
  case disable l => exact hf
  all_goals exact h

/-- INIT starts from any chips (R34, R88). -/
theorem State.progress_init_zero (s : State) : s.Progress .init 0 :=
  ⟨fun h => absurd h (by decide), fun h => absurd h (by decide), fun h => absurd h (by decide)⟩

/-- Step 0 moves no chip, so the mirror of a new mask is behind until both bytes are written (R146). -/
theorem State.Progress.stepZero {s : State} {i : Instr} (h : s.Progress i 0) : (s.stepZero i).Progress i 1 := by
  have hflush : s.FlushProgress 0 → (s.stepZero i).FlushProgress 1 := fun hf =>
    ⟨by simpa using hf.masterSeq, by simpa using hf.slaveSeq, fun h1 => absurd rfl h1, fun h0 => absurd h0 (by decide)⟩
  have hkept : ConfigsKept s (s.stepZero i) := ⟨by simp, by simp⟩
  cases i
  case init => exact ⟨fun h => absurd h (by decide), fun h => absurd h (by decide), fun h => absurd h (by decide)⟩
  case enable l => exact hflush h
  case disable l => exact hflush h
  all_goals exact State.Mirrors.congr h hkept (State.stepZero_irqMask ..)

/-! ## The transactions of each command -/

/-- INIT's rows by position: ICW1 of each chip at 1 and 5, ICW2 to ICW4 and the mask byte on the data ports (R80, D1). -/
theorem initTxns_row {k : Nat} {j : Instr} {rest : List Instr} (h1 : 1 ≤ k) (h : initTxns.drop (k - 1) = j :: rest) :
    k + rest.length = 10 ∧
    ((k = 1 ∧ j = .icw1M) ∨ (k = 5 ∧ j = .icw1S) ∨
      (∃ v, portOp .split j = some (.write Config.masterData v) ∧
        (2 ≤ k ∧ k ≤ 4 ∨ k = 9 ∧ v = lo Config.maskBaseline)) ∨
      (∃ v, portOp .split j = some (.write Config.slaveData v) ∧
        (6 ≤ k ∧ k ≤ 8 ∨ k = 10 ∧ v = hi Config.maskBaseline))) := by
  have hlen := congrArg List.length h
  rw [List.length_drop, show initTxns.length = 10 from rfl, List.length_cons] at hlen
  refine ⟨by omega, ?_⟩
  have h10 : k ≤ 10 := by omega
  interval_cases k <;> cases h
  · exact .inl ⟨rfl, rfl⟩
  · exact .inr (.inr (.inl ⟨_, rfl, by decide⟩))
  · exact .inr (.inr (.inl ⟨_, rfl, by decide⟩))
  · exact .inr (.inr (.inl ⟨_, rfl, by decide⟩))
  · exact .inr (.inl ⟨rfl, rfl⟩)
  · exact .inr (.inr (.inr ⟨_, rfl, by decide⟩))
  · exact .inr (.inr (.inr ⟨_, rfl, by decide⟩))
  · exact .inr (.inr (.inr ⟨_, rfl, by decide⟩))
  · exact .inr (.inr (.inl ⟨_, rfl, .inr ⟨rfl, rfl⟩⟩))
  · exact .inr (.inr (.inr ⟨_, rfl, .inr ⟨rfl, rfl⟩⟩))

/-- INIT's bytes on the master's data port: ICW2 to ICW4 end its sequence, the last one is its mask (R88). -/
theorem State.InitProgress.emit_masterData {s : State} {k : Nat} {j : Instr} {v : Byte} (h : s.InitProgress k)
    (hsp : s.Split) (hm : s.irqMask = Config.maskBaseline)
    (hj : portOp .split j = some (.write Config.masterData v))
    (hk : 2 ≤ k ∧ k ≤ 4 ∨ k = 9 ∧ v = lo Config.maskBaseline) : (s.emit j).InitProgress (k + 1) := by
  obtain ⟨hM, hS⟩ := State.emit_masterData hsp hj
  have hS := chipConfig_eq_iff.1 hS
  have hseq : (s.emit j).master.icwStep.val = s.master.icwStep.val - 1 := by
    rw [← chipConfig_icwStep, hM, ChipConfig.take_icwStep, chipConfig_icwStep]
  refine ⟨fun _ => ?_, fun h6 => ?_, fun h10 => ?_⟩
  · rw [hseq, h.masterSeq (by omega)]; omega
  · rw [hS.icwStep, h.slaveSeq (by omega)]; omega
  · obtain ⟨rfl, rfl⟩ := hk.resolve_left (by omega)
    have h0 : s.master.icwStep = 0 := Fin.ext (h.masterSeq (by decide))
    rw [← chipConfig_imr, hM, ChipConfig.take_mask _ h0, State.emit_irqMask, hm]

/-- INIT's bytes on the slave's data port: ICW2 to ICW4 end its sequence, the last one is its mask and completes the
mirror (R88). -/
theorem State.InitProgress.emit_slaveData {s : State} {k : Nat} {j : Instr} {v : Byte} (h : s.InitProgress k)
    (hsp : s.Split) (hm : s.irqMask = Config.maskBaseline)
    (hj : portOp .split j = some (.write Config.slaveData v))
    (hk : 6 ≤ k ∧ k ≤ 8 ∨ k = 10 ∧ v = hi Config.maskBaseline) :
    (s.emit j).InitProgress (k + 1) ∧ (k = 10 → (s.emit j).Mirrors) := by
  obtain ⟨hS, hM⟩ := State.emit_slaveData hsp hj
  have hM := chipConfig_eq_iff.1 hM
  have hseq : (s.emit j).slave.icwStep.val = s.slave.icwStep.val - 1 := by
    rw [← chipConfig_icwStep, hS, ChipConfig.take_icwStep, chipConfig_icwStep]
  have hprog : (s.emit j).InitProgress (k + 1) := by
    refine ⟨fun _ => ?_, fun h6 => ?_, fun h10 => ?_⟩
    · rw [hM.icwStep, h.masterSeq (by omega)]; omega
    · rw [hseq, h.slaveSeq (by omega)]; omega
    · rw [hM.imr, h.masterMask (by omega), State.emit_irqMask]
  refine ⟨hprog, ?_⟩
  rintro rfl
  obtain ⟨-, rfl⟩ := hk.resolve_left (by omega)
  have h0 : s.slave.icwStep = 0 := Fin.ext (h.slaveSeq (by decide))
  refine ⟨Fin.ext (hprog.masterSeq (by decide)), Fin.ext (hprog.slaveSeq (by decide)),
    hprog.masterMask (by decide), ?_⟩
  rw [← chipConfig_imr, hS, ChipConfig.take_mask _ h0, State.emit_irqMask, hm]

/-- Each row of INIT takes its chip one position on; the last one completes the mirror (R88). -/
theorem State.InitProgress.emit {s : State} {k : Nat} {j : Instr} {rest : List Instr} (h : s.InitProgress k)
    (hsp : s.Split) (hm : s.irqMask = Config.maskBaseline) (h1 : 1 ≤ k) (hl : initTxns.drop (k - 1) = j :: rest) :
    (s.emit j).InitProgress (k + 1) ∧ (rest = [] → (s.emit j).Mirrors) := by
  obtain ⟨hlen, hrow⟩ := initTxns_row h1 hl
  have hlast : rest = [] → k = 10 := by rintro rfl; simpa using hlen
  rcases hrow with ⟨rfl, rfl⟩ | ⟨rfl, rfl⟩ | ⟨v, hj, hk⟩ | ⟨v, hj, hk⟩
  · obtain ⟨hM, -⟩ := State.emit_icw1M hsp
    refine ⟨⟨fun _ => by rw [hM]; rfl, fun h => absurd h (by decide), fun h => absurd h (by decide)⟩, fun hr => ?_⟩
    exact absurd (hlast hr) (by decide)
  · obtain ⟨hS, hM⟩ := State.emit_icw1S hsp
    have hM := chipConfig_eq_iff.1 hM
    refine ⟨⟨fun _ => ?_, fun _ => by rw [hS]; rfl, fun h => absurd h (by decide)⟩, fun hr => ?_⟩
    · rw [hM.icwStep, h.masterSeq (by decide)]
    · exact absurd (hlast hr) (by decide)
  · refine ⟨h.emit_masterData hsp hm hj hk, fun hr => ?_⟩
    have := hlast hr
    omega
  · obtain ⟨hprog, hmirror⟩ := h.emit_slaveData hsp hm hj hk
    exact ⟨hprog, fun hr => hmirror (hlast hr)⟩

/-- The first mask write brings the master's register up to the mask, the second one the slave's (R92, R146). -/
theorem State.FlushProgress.emit {s : State} {k : Nat} {j : Instr} {rest : List Instr} (h : s.FlushProgress k)
    (hsp : s.Split) (h1 : 1 ≤ k) (hl : (flushTxns s.irqMask).drop (k - 1) = j :: rest) :
    (s.emit j).FlushProgress (k + 1) ∧ (rest = [] → (s.emit j).Mirrors) := by
  have hlen := congrArg List.length hl
  rw [List.length_drop, show (flushTxns s.irqMask).length = 2 from rfl, List.length_cons] at hlen
  obtain rfl | rfl : k = 1 ∨ k = 2 := by omega
  · cases hl
    obtain ⟨hM, hS⟩ := State.emit_masterData (j := .maskM (lo s.irqMask)) hsp rfl
    have hS := chipConfig_eq_iff.1 hS
    refine ⟨⟨?_, hS.icwStep.trans h.slaveSeq, fun _ => ?_, fun h0 => absurd h0 (by decide)⟩,
      fun hr => absurd hr (List.cons_ne_nil _ _)⟩
    · refine Fin.ext ?_
      rw [← chipConfig_icwStep, hM, ChipConfig.take_icwStep, chipConfig_icwStep, h.masterSeq]; rfl
    · rw [← chipConfig_imr, hM, ChipConfig.take_mask _ h.masterSeq, State.emit_irqMask]
  · cases hl
    obtain ⟨hS, hM⟩ := State.emit_slaveData (j := .maskS (hi s.irqMask)) hsp rfl
    have hM := chipConfig_eq_iff.1 hM
    have hseq : (s.emit (.maskS (hi s.irqMask))).slave.icwStep = 0 := by
      refine Fin.ext ?_
      rw [← chipConfig_icwStep, hS, ChipConfig.take_icwStep, chipConfig_icwStep, h.slaveSeq]; rfl
    have hmask : (s.emit (.maskS (hi s.irqMask))).master.imr = lo (s.emit (.maskS (hi s.irqMask))).irqMask := by
      rw [hM.imr, h.masterMask (by decide), State.emit_irqMask]
    refine ⟨⟨hM.icwStep.trans h.masterSeq, hseq, fun _ => hmask, fun h0 => absurd h0 (by decide)⟩,
      fun _ => ⟨hM.icwStep.trans h.masterSeq, hseq, hmask, ?_⟩⟩
    rw [← chipConfig_imr, hS, ChipConfig.take_mask _ h.slaveSeq, State.emit_irqMask]

/-- A transaction of the command in progress leads to the chips of the next micro-step; the last one leaves the mirror
whole. -/
theorem State.Progress.emit {s : State} {i j : Instr} {rest : List Instr} (h : s.Progress i s.step) (hw : s.Within i)
    (hsp : s.Split) (h0 : s.step ≠ 0) (hl : s.txns = j :: rest) :
    ((s.setTxns rest).emit j).Progress i (s.step + 1) ∧ (rest = [] → ((s.setTxns rest).emit j).Mirrors) := by
  have h' : (s.setTxns rest).Progress i s.step := h.congr ⟨rfl, rfl⟩ rfl
  have hd : (txnsOf i s).drop (s.step - 1) = j :: rest := by rw [← hw.txns_eq h0, hl]
  have h1 : 1 ≤ s.step := Nat.one_le_iff_ne_zero.2 h0
  have hquiet : (∃ l, i = .eoi l) ∨ i = .rdirr ∨ i = .rdisr → (s.setTxns rest).Mirrors →
      ((s.setTxns rest).emit j).Mirrors := fun hi hm =>
    hm.congr (State.configsKept_quietRow hm.masterSeq hm.slaveSeq (quietRow_of_mem_txnsOf hi (hw.next_row h0 hl).1))
      (State.emit_irqMask ..)
  cases i
  case init => exact State.InitProgress.emit h' hsp (hw.baseline rfl h0) h1 hd
  case enable l => exact State.FlushProgress.emit h' hsp h1 hd
  case disable l => exact State.FlushProgress.emit h' hsp h1 hd
  case eoi l => exact ⟨hquiet (.inl ⟨l, rfl⟩) h', fun _ => hquiet (.inl ⟨l, rfl⟩) h'⟩
  case rdirr => exact ⟨hquiet (.inr (.inl rfl)) h', fun _ => hquiet (.inr (.inl rfl)) h'⟩
  case rdisr => exact ⟨hquiet (.inr (.inr rfl)) h', fun _ => hquiet (.inr (.inr rfl)) h'⟩
  all_goals exact absurd (encodeCmd_of_readCmd _ _ hw.word).2 (by simp [Instr.isCommand])

/-- The transaction and the advance together: the next micro-step's progress, or idle with a whole mirror. -/
theorem State.chipsAgree_row {s : State} {i j : Instr} {rest : List Instr} (h : s.Progress i s.step) (hw : s.Within i)
    (hb : s.busy = true) (hsp : s.Split) (h0 : s.step ≠ 0) (hl : s.txns = j :: rest) :
    (State.retire (State.emit j (s.setTxns rest))).ChipsAgree := by
  obtain ⟨hnext, hlast⟩ := h.emit hw hsp h0 hl
  have hk : ConfigsKept (State.emit j (s.setTxns rest)) (State.retire (State.emit j (s.setTxns rest))) :=
    ⟨by simp, by simp⟩
  cases rest with
  | nil =>
    have hbt : (State.retire (State.emit j (s.setTxns []))).busy = false := by
      rw [State.retire_nil (by simp)]; rfl
    exact ⟨fun hc => absurd (hbt.symm.trans hc) (by decide), fun _ _ => (hlast rfl).congr hk (State.retire_irqMask _)⟩
  | cons k rest =>
    have hret := State.retire_cons (s := State.emit j (s.setTxns (k :: rest))) (i := k) (rest := rest) (by simp)
    refine ⟨fun _ i' hr => ?_, fun hc => ?_⟩
    · rw [State.retire_cmd, State.emit_cmd, State.setTxns_cmd, hw.word] at hr
      cases hr
      rw [hret, State.advance_step, State.emit_step, State.setTxns_step, ← hret]
      exact hnext.congr hk (State.retire_irqMask _)
    · rw [hret] at hc; simp [hb] at hc

/-- Every move keeps coherence. -/
theorem coherent_moves : Moves State.Coherent where
  sequenced _ h := (State.coherent_iff.1 h).1
  stream s l h := h.congr (sequenced_moves.stream s l h.1) rfl rfl rfl rfl rfl rfl ⟨rfl, rfl⟩
  mark s r h := h.congr (sequenced_moves.mark s r h.1) rfl rfl rfl rfl rfl rfl ⟨rfl, rfl⟩
  accept s i h hi ht := by
    obtain ⟨hs, hch⟩ := State.coherent_iff.1 h
    obtain ⟨hb, hp⟩ := State.turnedAway_none ht
    refine State.coherent_iff.2 ⟨sequenced_moves.accept s i hs hi ht, fun hsp => ⟨fun _ i' hr => ?_, fun hc => ?_⟩⟩
    · rw [State.accept_cmd, readCmd_encodeCmd i hi] at hr
      cases hr
      by_cases hinit : i = .init
      · subst hinit; exact State.progress_init_zero _
      · have hready : s.phase = .ready := by
          cases hph : s.phase
          · exact absurd (hp.2 hph) hinit
          · rfl
        exact (((hch hsp).2 hb hready).progress_zero hinit).congr ⟨rfl, rfl⟩ rfl
    · cases hc
  zero s i h hb hw h0 := by
    obtain ⟨hs, hch⟩ := State.coherent_iff.1 h
    refine State.coherent_iff.2 ⟨sequenced_moves.zero s i hs hb hw h0, fun hsp => ⟨fun _ i' hr => ?_, fun hc => ?_⟩⟩
    · rw [State.stepZero_cmd, hw.word] at hr
      cases hr
      have hprog := (hch (by simpa [State.Split] using hsp)).1 hb i hw.word
      rw [h0] at hprog
      rw [State.stepZero_step]
      exact hprog.stepZero
    · rw [State.stepZero_busy, hb] at hc; cases hc
  row s i j rest h hb hw h0 hl := by
    obtain ⟨hs, hch⟩ := State.coherent_iff.1 h
    refine State.coherent_iff.2 ⟨sequenced_moves.row s i j rest hs hb hw h0 hl, fun hsp => ?_⟩
    have hsp' : s.Split := by simpa [State.Split] using hsp
    exact State.chipsAgree_row ((hch hsp').1 hb i hw.word) hw hb hsp' h0 hl

end Sys2Proof.Machine

namespace Sys2Proof.Proofs

open Sys2Proof Sys2Proof.Machine Sys2Proof.Claims

/-- Settles O54: every move of a step keeps mask registers, sequence positions and the mask together. -/
theorem coherentKept : Obligations.CoherentKept := fun _ _ hs h => coherent_moves.step hs h

/-- Settles O53: at reset the block is idle and not Ready, so that nothing is asked of the chips. -/
theorem coherentAtReset : Obligations.CoherentAtReset := fun p =>
  State.coherent_iff.2 ⟨sequencedAtReset p, fun _ => ⟨nofun, nofun⟩⟩

end Sys2Proof.Proofs
end

section
/-!
SUPPORT and settled statements: whole commands at the atomic grain (spec/10_state.md R16): what INIT, ENABLE, DISABLE, EOI
and the reads leave of the chips (R23, R24, R88, R107), and the micro-steps that come to the same (decision D4).
-/
namespace Sys2Proof.Machine

open Sys2Proof.Claims

/-- A command other than INIT, idle and Ready, at the atomic grain. -/
theorem exec_readyAtomic {s : State} {i : Instr} (h : ReadyAtomic s) (hi : i.isCommand = true) (hne : i ≠ .init)
    (hl : ∀ l, i.line? = some l → LineOk s l) :
    exec i s = .next (State.runTxns (s.started i).txns (s.started i)) := by
  obtain ⟨hb, hp, hg⟩ := h
  exact exec_atomic hi (State.turnedAway_ready hb hp hne hl) hg

/-! ## EOI, RDIRR and RDISR -/

theorem ConfigsKept.trans {s t u : State} (h : ConfigsKept s t) (h' : ConfigsKept t u) : ConfigsKept s u :=
  ⟨h'.1.trans h.1, h'.2.trans h.2⟩

/-- A list of such rows leaves both configurations (R107). -/
theorem State.configsKept_runTxns {l : List Instr} (hl : ∀ j ∈ l, quietRow j = true) (s : State)
    (hm : s.master.icwStep = 0) (hs : s.slave.icwStep = 0) : ConfigsKept s (State.runTxns l s) := by
  induction l generalizing s with
  | nil => exact ⟨rfl, rfl⟩
  | cons j rest ih =>
    have hrow : ConfigsKept s (State.retire (State.emit j (s.setTxns rest))) := by
      have he : ConfigsKept (s.setTxns rest) ((s.setTxns rest).emit j) :=
        State.configsKept_quietRow hm hs (hl j List.mem_cons_self)
      exact ⟨by simpa using he.1, by simpa using he.2⟩
    have hM := (chipConfig_eq_iff.1 hrow.1).icwStep
    have hS := (chipConfig_eq_iff.1 hrow.2).icwStep
    exact hrow.trans (ih (fun k hk => hl k (List.mem_cons_of_mem _ hk)) _ (hM.trans hm) (hS.trans hs))

/-! ## ENABLE and DISABLE -/

/-- What one mask byte leaves of a chip: the mask replaced, IRR, ISR and the record of the interrupts taken aside. -/
structure MaskReplaced (v : Byte) (c d : Chip) : Prop where
  imr : d.imr = v
  icwStep : d.icwStep = c.icwStep
  rsel : d.rsel = c.rsel
  vbase : d.vbase = c.vbase
  cascade : d.cascade = c.cascade
  mode : d.mode = c.mode

/-- The two writes of `FLUSH`, outside a sequence, whichever `ICW_PORTS` (R92). -/
theorem State.runTxns_flush {s : State} (m : Half) (hc : s.par.chipsPresent = true) (hm : s.master.icwStep = 0)
    (hs : s.slave.icwStep = 0) :
    MaskReplaced (lo m) s.master (State.runTxns (flushTxns m) s).master ∧
      MaskReplaced (hi m) s.slave (State.runTxns (flushTxns m) s).slave := by
  obtain ⟨hM1, hS1⟩ := State.emit_maskM (s := s.setTxns [.maskS (hi m)]) (lo m) hc hm
  obtain ⟨hS2, hM2⟩ := State.emit_maskS
    (s := (State.emit (.maskM (lo m)) (s.setTxns [.maskS (hi m)])).advance.setTxns []) (hi m)
    (by simpa using hc) (by simpa [hS1] using hs)
  rw [flushTxns, State.runTxns_more, State.runTxns_last]
  simp only [State.release_master, State.complete_master, State.release_slave, State.complete_slave]
  rw [hM2, hS2]
  constructor
  · constructor <;> simp [hM1]
  · constructor <;> simp [hS1]

/-! ## INIT: conditions on the two configurations, carried backwards over the list -/

/-- From every state whose configurations meet `P`, running `l` leaves configurations that meet `Q`. -/
def Leads (l : List Instr) (P Q : ChipConfig → ChipConfig → Prop) : Prop :=
  ∀ s : State, s.Split → P (chipConfig s.master) (chipConfig s.slave) →
    Q (chipConfig (State.runTxns l s).master) (chipConfig (State.runTxns l s).slave)

theorem Leads.nil {Q : ChipConfig → ChipConfig → Prop} : Leads [] Q Q := fun _ _ h => h

/-- One row in front: what it leads to from `P`, the rest takes up. -/
theorem Leads.cons {j : Instr} {rest : List Instr} {P R Q : ChipConfig → ChipConfig → Prop} (h : Leads rest R Q)
    (hj : ∀ s : State, s.Split → P (chipConfig s.master) (chipConfig s.slave) →
      R (chipConfig (s.emit j).master) (chipConfig (s.emit j).slave)) : Leads (j :: rest) P Q := by
  intro s hsp hP
  have hR := hj (s.setTxns rest) hsp hP
  exact h (State.retire (State.emit j (s.setTxns rest))) (by simpa [State.Split] using hsp) (by simpa using hR)

theorem Leads.masterData {j : Instr} {rest : List Instr} {R Q : ChipConfig → ChipConfig → Prop} {v : Byte}
    (hj : portOp .split j = some (.write Config.masterData v)) (h : Leads rest R Q) :
    Leads (j :: rest) (fun M S => R (M.take v) S) Q :=
  h.cons fun s hsp hP => by
    obtain ⟨hM, hS⟩ := State.emit_masterData hsp hj
    rw [hM, hS]; exact hP

theorem Leads.slaveData {j : Instr} {rest : List Instr} {R Q : ChipConfig → ChipConfig → Prop} {v : Byte}
    (hj : portOp .split j = some (.write Config.slaveData v)) (h : Leads rest R Q) :
    Leads (j :: rest) (fun M S => R M (S.take v)) Q :=
  h.cons fun s hsp hP => by
    obtain ⟨hS, hM⟩ := State.emit_slaveData hsp hj
    rw [hM, hS]; exact hP

theorem Leads.icw1M {rest : List Instr} {R Q : ChipConfig → ChipConfig → Prop} (h : Leads rest R Q) :
    Leads (.icw1M :: rest) (fun _ S => ∀ M, M.icwStep = 3 → R M S) Q :=
  h.cons fun s hsp hP => by
    obtain ⟨hM, hS⟩ := State.emit_icw1M hsp
    rw [hS]; exact hP _ hM

theorem Leads.icw1S {rest : List Instr} {R Q : ChipConfig → ChipConfig → Prop} (h : Leads rest R Q) :
    Leads (.icw1S :: rest) (fun M _ => ∀ S, S.icwStep = 3 → R M S) Q :=
  h.cons fun s hsp hP => by
    obtain ⟨hS, hM⟩ := State.emit_icw1S hsp
    rw [hM]; exact hP _ hS

/-- ICW2, ICW3, ICW4 and then a mask byte configure a chip whatever it held (R20, R88). -/
theorem ChipConfig.take_sequence {g : ChipConfig} (h : g.icwStep = 3) (a b c m : Byte) :
    (((g.take a).take b).take c).take m = ⟨m, 0, a, b, c⟩ := by
  obtain ⟨imr, k, vbase, cascade, mode⟩ := g
  cases h
  rfl

/-- INIT's ten rows configure both chips (R88). -/
theorem leads_initTxns :
    Leads initTxns (fun _ _ => True) fun M S =>
      M = ⟨lo Config.maskBaseline, 0, Config.icw2Master, Config.icw3Master, Config.icw4Master⟩ ∧
      S = ⟨hi Config.maskBaseline, 0, Config.icw2Slave, Config.icw3Slave, Config.icw4Slave⟩ := by
  have h := Leads.icw1M <| Leads.masterData (j := .icw2M) rfl <| Leads.masterData (j := .icw3M) rfl <|
    Leads.masterData (j := .icw4M) rfl <| Leads.icw1S <| Leads.slaveData (j := .icw2S) rfl <|
    Leads.slaveData (j := .icw3S) rfl <| Leads.slaveData (j := .icw4S) rfl <|
    Leads.masterData (j := .maskM (lo Config.maskBaseline)) rfl <|
    Leads.slaveData (j := .maskS (hi Config.maskBaseline)) rfl <| Leads.nil (Q := fun M S =>
      M = ⟨lo Config.maskBaseline, 0, Config.icw2Master, Config.icw3Master, Config.icw4Master⟩ ∧
      S = ⟨hi Config.maskBaseline, 0, Config.icw2Slave, Config.icw3Slave, Config.icw4Slave⟩)
  exact fun s hsp _ => h s hsp fun M hM S hS =>
    ⟨ChipConfig.take_sequence hM _ _ _ _, ChipConfig.take_sequence hS _ _ _ _⟩

end Sys2Proof.Machine

namespace Sys2Proof.Proofs

open Sys2Proof Sys2Proof.Machine Sys2Proof.Claims

/-- Settles O41: INIT's list leads from any two configurations to the one the rule gives. -/
theorem initConfiguresBothChips : Obligations.InitConfiguresBothChips := by
  intro s hb hp hg hc hsp
  refine ⟨_, exec_atomic rfl (State.turnedAway_init hb hp) hg, ?_⟩
  obtain ⟨hM, hS⟩ := leads_initTxns (s.started .init) ⟨hc, hsp⟩ trivial
  exact ⟨congrArg ChipConfig.imr hM, congrArg ChipConfig.icwStep hM, congrArg ChipConfig.vbase hM,
    congrArg ChipConfig.cascade hM, congrArg ChipConfig.mode hM, congrArg ChipConfig.imr hS,
    congrArg ChipConfig.icwStep hS, congrArg ChipConfig.vbase hS, congrArg ChipConfig.cascade hS,
    congrArg ChipConfig.mode hS⟩

/-- Settles O42: the two mask bytes are those of the stored mask. -/
theorem maskOpsRestoreMirror : Obligations.MaskOpsRestoreMirror := by
  intro s l i hra hl hup hi
  obtain ⟨hc, hne, hflush, hline⟩ := maskCommand hi
  have htx : (s.started i).txns = flushTxns (s.started i).irqMask := by rw [State.stepZero_txns, hflush]
  obtain ⟨hM, hS⟩ := State.runTxns_flush (s := s.started i) (s.started i).irqMask (by simpa using hup.present)
    (by simpa using hup.masterSeq) (by simpa using hup.slaveSeq)
  refine ⟨_, exec_readyAtomic hra hc hne (fun k hk => hline k hk ▸ hl), ?_⟩
  rw [htx]
  simp only [State.stepZero_master, State.accept_master, State.stepZero_slave, State.accept_slave] at hM hS
  exact ⟨⟨hM.icwStep.trans hup.masterSeq, hS.icwStep.trans hup.slaveSeq, by rw [hM.imr, State.runTxns_irqMask],
    by rw [hS.imr, State.runTxns_irqMask]⟩, hM.rsel, hM.vbase, hM.cascade, hM.mode,
    hS.rsel, hS.vbase, hS.cascade, hS.mode⟩

/-- Settles O46: the rows of the three commands leave both configurations. -/
theorem eoiAndReadsKeepMasksAndConfiguration : Obligations.EoiAndReadsKeepMasksAndConfiguration := by
  intro s l i hra hl hup hi
  obtain ⟨hc, hne, hmask, hline⟩ := quietCommand hi
  have hquiet : ∀ j ∈ (s.started i).txns, quietRow j = true := by
    rw [State.stepZero_txns]
    exact fun j hj => quietRow_of_mem_txnsOf (hi.imp_left fun h => ⟨l, h⟩) hj
  have hk : ConfigsKept s (State.runTxns (s.started i).txns (s.started i)) := by
    have := State.configsKept_runTxns hquiet (s.started i) (by simpa using hup.masterSeq) (by simpa using hup.slaveSeq)
    simpa [ConfigsKept] using this
  obtain ⟨hM1, hM2, hM3, hM4, hM5⟩ := chipConfig_eq_iff.1 hk.1
  obtain ⟨hS1, hS2, hS3, hS4, hS5⟩ := chipConfig_eq_iff.1 hk.2
  exact ⟨_, exec_readyAtomic hra hc hne (fun k hk => hline k hk ▸ hl), fun h => h.congr hk (by simp [hmask]), hM1,
    hM2.trans hup.masterSeq, hM3, hM4, hM5, hS1, hS2.trans hup.slaveSeq, hS3, hS4, hS5⟩

end Sys2Proof.Proofs
end

section
/-!
SUPPORT and settled statement: the grain changes nothing but how far one step goes (spec/10_state.md R16, decision D4). A
transaction takes no notice of it, and the steps of a command that is not disturbed are the running of its list.
-/
namespace Sys2Proof.Machine

open Sys2Proof.Claims

/-! ## A transaction takes no notice of the grain -/

@[simp] theorem atGrain_chipsPresent (g : Grain) (s : State) :
    (atGrain g s).par.chipsPresent = s.par.chipsPresent := rfl
@[simp] theorem atGrain_icwPorts (g : Grain) (s : State) : (atGrain g s).par.icwPorts = s.par.icwPorts := rfl
@[simp] theorem atGrain_phase (g : Grain) (s : State) : (atGrain g s).phase = s.phase := rfl
@[simp] theorem atGrain_cmd (g : Grain) (s : State) : (atGrain g s).cmd = s.cmd := rfl
@[simp] theorem atGrain_txns (g : Grain) (s : State) : (atGrain g s).txns = s.txns := rfl
@[simp] theorem atGrain_taken (g : Grain) (s : State) : (atGrain g s).taken = s.taken := rfl

theorem State.environment_atGrain (g : Grain) (s : State) :
    (atGrain g s).environment = atGrain g s.environment := by
  unfold State.environment
  rw [atGrain_chipsPresent, atGrain_phase, atGrain_taken]
  split
  · split <;> rfl
  · rfl

theorem State.chipsTake_atGrain (g : Grain) (p : Port) (v : Byte) (s : State) :
    (atGrain g s).chipsTake p v = atGrain g (s.chipsTake p v) := by
  unfold State.chipsTake
  rw [atGrain_chipsPresent, atGrain_icwPorts]
  repeat' split
  all_goals rfl

theorem State.chipsAnswer_atGrain (g : Grain) (p : Port) (s : State) :
    (atGrain g s).chipsAnswer p = atGrain g (s.chipsAnswer p) := by
  unfold State.chipsAnswer
  rw [atGrain_chipsPresent]
  repeat' split
  all_goals rfl

theorem State.latchByte_atGrain (g : Grain) (p : Port) (v : Byte) (s : State) :
    (atGrain g s).latchByte p v = atGrain g (s.latchByte p v) := by
  unfold State.latchByte
  repeat' split
  all_goals rfl

theorem State.portWrite_atGrain (g : Grain) (p : Port) (v : Byte) (s : State) :
    (atGrain g s).portWrite p v = atGrain g (s.portWrite p v) := by
  rw [State.portWrite, State.environment_atGrain, State.chipsTake_atGrain]
  rfl

theorem State.portRead_atGrain (g : Grain) (p : Port) (s : State) :
    (atGrain g s).portRead p = atGrain g (s.portRead p) := by
  rw [State.portRead, State.environment_atGrain, State.chipsAnswer_atGrain, State.latchByte_atGrain]
  rfl

theorem State.emit_atGrain (g : Grain) (i : Instr) (s : State) : (atGrain g s).emit i = atGrain g (s.emit i) := by
  unfold State.emit
  rw [atGrain_icwPorts]
  split
  · exact State.portWrite_atGrain g _ _ s
  · exact State.portRead_atGrain g _ s
  · rfl

theorem State.retire_atGrain (g : Grain) (s : State) : (atGrain g s).retire = atGrain g s.retire := by
  unfold State.retire State.complete
  rw [atGrain_txns, atGrain_cmd]
  split
  · split <;> rfl
  · rfl

theorem State.runTxns_atGrain (g : Grain) (l : List Instr) (s : State) :
    State.runTxns l (atGrain g s) = atGrain g (State.runTxns l s) := by
  induction l generalizing s with
  | nil => rfl
  | cons i rest ih =>
    rw [State.runTxns, State.runTxns, ← ih, ← State.retire_atGrain, ← State.emit_atGrain]
    rfl

theorem State.started_atGrain (g : Grain) (i : Instr) (s : State) : (atGrain g s).started i = atGrain g (s.started i) := by
  cases i <;> rfl

/-! ## The steps of a command that is not disturbed -/

theorem tick_patient {l : List Submission} (h : Patient l) : tick l = l := by
  rcases h with rfl | ⟨w, rest, rfl⟩ <;> rfl

theorem undisturbed_of_patient {s : State} (h : Patient s.stream) : Undisturbed s := by
  intro w rest hs
  rw [hs] at h
  rcases h with h | ⟨w', rest', h⟩ <;> cases h

theorem runSteps_succ {s t : State} (k : Nat) (h : step s = .next t) : runSteps (k + 1) s = runSteps k t := by
  simp only [runSteps, h]

/-- An admitted command next in the stream is latched (R63). -/
theorem step_admitted {s : State} {i : Instr} (hi : i.isCommand = true) (ht : s.turnedAway i = none)
    (hg : s.par.grain = .microStep) :
    step (s.setStream (⟨encodeCmd i, .whenIdle⟩ :: s.stream)) = .next (s.accept (encodeCmd i)) := by
  have hb : (s.setStream (⟨encodeCmd i, .whenIdle⟩ :: s.stream)).busy = false := (State.turnedAway_none ht).1
  have htaken : (s.setStream (⟨encodeCmd i, .whenIdle⟩ :: s.stream)).setStream s.stream = s := rfl
  rw [step_command hb (State.setStream_stream _ _) (readCmd_encodeCmd i hi), htaken, exec_command i s hi,
    State.perform_micro _ ht hg]

/-- Step 0 follows, with a caller that waits. -/
theorem step_started {s : State} {i : Instr} (hi : i.isCommand = true) (hp : Patient s.stream) :
    step (s.accept (encodeCmd i)) = .next (s.started i) := by
  have hn : (s.accept (encodeCmd i)).intruder = none := State.intruder_undisturbed (undisturbed_of_patient hp)
  have hkeep : (s.accept (encodeCmd i)).setStream s.stream = s.accept (encodeCmd i) := rfl
  rw [step_zero (State.accept_busy ..) hn (State.accept_step ..) (readCmd_encodeCmd i hi), State.accept_stream,
    tick_patient hp, hkeep]

/-- One step a transaction, the steps of a command are the running of its list (R16, R51). -/
theorem runSteps_txns (l : List Instr) (s : State) (hb : s.busy = true) (h0 : s.step ≠ 0) (hl : s.txns = l)
    (hp : Patient s.stream) (hc : ∀ j ∈ l, j.isCommand = false) :
    runSteps l.length s = some (State.runTxns l s) := by
  induction l generalizing s with
  | nil => rfl
  | cons j rest ih =>
    have hx : exec j ((s.setStream (tick s.stream)).setTxns rest) = .next ((s.setTxns rest).emit j) := by
      rw [tick_patient hp]
      exact exec_transaction j _ (hc j List.mem_cons_self)
    rw [List.length_cons, State.runTxns,
      runSteps_succ _ (step_transaction hb (State.intruder_undisturbed (undisturbed_of_patient hp)) h0 hl hx)]
    cases rest with
    | nil => rfl
    | cons k rest =>
      have hret := State.retire_cons (s := (s.setTxns (k :: rest)).emit j) (i := k) (rest := rest) (by simp)
      exact ih _ (by simpa [hret] using hb) (by simp [hret]) (by simp) (by simpa using hp)
        fun m hm => hc m (List.mem_cons_of_mem _ hm)

end Sys2Proof.Machine

namespace Sys2Proof.Proofs

open Sys2Proof Sys2Proof.Machine Sys2Proof.Claims

/-- Settles O22: admission is one step, step 0 one, and every transaction one. -/
theorem microStepsRefineAtomic : Obligations.MicroStepsRefineAtomic := by
  intro s i hi hb ht hg hp
  refine ⟨State.runTxns (s.started i).txns (s.started i), ?_, ?_⟩
  · have hadmitted : step (s.setStream (⟨encodeCmd i, .whenIdle⟩ :: s.stream)) = .next (s.accept (encodeCmd i)) :=
      step_admitted hi ht hg
    have hzero : step (s.accept (encodeCmd i)) = .next (s.started i) := step_started hi hp
    change runSteps _ (s.setStream _) = _
    rw [runSteps_succ _ hadmitted, runSteps_succ _ hzero, ← length_txnsOf i (s.started i), ← State.stepZero_txns]
    refine runSteps_txns _ _ (by simp) (by simp) rfl (by simpa using hp) fun j hj => ?_
    rw [State.stepZero_txns] at hj
    exact isCommand_of_mem_txnsOf hj
  · rw [exec_atomic (s := atGrain .atomic s) hi ht rfl, State.started_atGrain, State.runTxns_atGrain]
    rfl

end Sys2Proof.Proofs
end

section
/-!
SUPPORT and settled statement: the bits of the masks ENABLE and DISABLE leave, and with them the cascade-line invariant
(spec/41_mask_ops.md R90, R91, R94).
-/
namespace Sys2Proof.Machine

open Sys2Proof.Claims

/-! ## The new masks bit by bit -/

theorem getLsbD_cascadeBit (k : Nat) : Config.cascadeBit.getLsbD k = decide (k = 2) :=
  getLsbD_bitOf 2 k

/-- ENABLE clears bit n and, for a slave-side line, the cascade bit (R90). -/
theorem getLsbD_enableMask (n : BitVec 4) (m : Half) (k : Nat) :
    (enableMask n m).getLsbD k =
      (m.getLsbD k && !decide (k = n.toNat) && !(decide (8 ≤ n.toNat) && decide (k = 2))) := by
  by_cases hk : k < 16
  · unfold enableMask slaveSide
    by_cases h8 : 8 ≤ n.toNat <;>
      simp only [h8, hk, decide_true, decide_false, if_true, if_false, BitVec.getLsbD_and, BitVec.getLsbD_not,
        getLsbD_bitOf, getLsbD_cascadeBit, Bool.true_and, Bool.false_and, Bool.not_false, Bool.and_true,
        Bool.false_eq_true]
  · rw [BitVec.getLsbD_of_ge _ _ (by omega), BitVec.getLsbD_of_ge m _ (by omega)]; rfl

/-- DISABLE sets bit n and, if every slave-side bit is then set, the cascade bit (R91). -/
theorem getLsbD_disableMask (n : BitVec 4) (m : Half) (k : Nat) :
    (disableMask n m).getLsbD k =
      (m.getLsbD k || decide (k = n.toNat) || (decide (hi (m ||| bitOf n) = 0xFF) && decide (k = 2))) := by
  unfold disableMask
  by_cases h : hi (m ||| bitOf n) = 0xFF
  · simp only [h, if_true, BitVec.getLsbD_or, getLsbD_bitOf, getLsbD_cascadeBit, decide_true, Bool.true_and]
  · simp only [h, if_false, BitVec.getLsbD_or, getLsbD_bitOf, decide_false, Bool.false_and, Bool.or_false]

/-- The high byte is told by the slave-side bits. -/
theorem hi_congr {a b : Half} (h : ∀ k, 8 ≤ k → k < 16 → a.getLsbD k = b.getLsbD k) : hi a = hi b := by
  apply BitVec.eq_of_getLsbD_eq
  intro k hk
  rw [getLsbD_hi, getLsbD_hi, h (8 + k) (by omega) (by omega)]

theorem hi_enableMask_of_lt {n : BitVec 4} (m : Half) (hn : n.toNat < 8) : hi (enableMask n m) = hi m :=
  hi_congr fun k h8 _ => by
    rw [getLsbD_enableMask]
    simp [show k ≠ n.toNat by omega, show k ≠ 2 by omega]

/-- The cascade bit is no slave-side bit, so that DISABLE's test is on the mask with bit n set. -/
theorem hi_disableMask (n : BitVec 4) (m : Half) : hi (disableMask n m) = hi (m ||| bitOf n) :=
  hi_congr fun k h8 _ => by
    rw [getLsbD_disableMask, BitVec.getLsbD_or, getLsbD_bitOf]
    simp [show k ≠ 2 by omega]

/-! ## The cascade-line invariant, operation by operation (R94) -/

/-- A slave-side line enabled establishes both halves. -/
theorem inv_enableMask_slave {n : BitVec 4} (m : Half) (hn : 8 ≤ n.toNat) :
    invA (enableMask n m) ∧ invB (enableMask n m) := by
  refine ⟨fun _ => ?_, fun hones => ?_⟩
  · rw [getLsbD_enableMask]; simp [hn]
  · have hbit := (hi_eq_ones _).1 hones n.toNat hn n.isLt
    rw [getLsbD_enableMask] at hbit
    simp at hbit

/-- A master-side line other than 2 moves neither the high byte nor the cascade bit. -/
theorem inv_enableMask_master {n : BitVec 4} {m : Half} (hn : n.toNat < 8) (h2 : n.toNat ≠ 2) :
    (invA m → invA (enableMask n m)) ∧ (invB m → invB (enableMask n m)) := by
  have hbit : (enableMask n m).getLsbD 2 = m.getLsbD 2 := by
    rw [getLsbD_enableMask]
    simp [show ¬ 8 ≤ n.toNat by omega, h2.symm]
  simp only [invA, invB, hi_enableMask_of_lt m hn, hbit]
  exact ⟨id, id⟩

/-- Line 2 enabled opens the cascade whatever the slave-side lines are. -/
theorem inv_enableMask_cascade {n : BitVec 4} (m : Half) (h2 : n.toNat = 2) :
    invA (enableMask n m) ∧ (hi m = 0xFF → ¬ invB (enableMask n m)) := by
  have hbit : (enableMask n m).getLsbD 2 = false := by rw [getLsbD_enableMask]; simp [h2]
  refine ⟨fun _ => hbit, fun hones hB => ?_⟩
  have := hB (by rw [hi_enableMask_of_lt m (by omega), hones])
  rw [hbit] at this
  cases this

/-- DISABLE's own test establishes INV-B (R91). -/
theorem invB_disableMask (n : BitVec 4) (m : Half) : invB (disableMask n m) := by
  intro hones
  rw [hi_disableMask] at hones
  rw [getLsbD_disableMask]
  simp [hones]

/-- A line other than 2 disabled keeps INV-A: if a slave-side line stays enabled, the cascade bit is not touched. -/
theorem invA_disableMask {n : BitVec 4} {m : Half} (h2 : n.toNat ≠ 2) (h : invA m) : invA (disableMask n m) := by
  intro hne
  rw [hi_disableMask] at hne
  have hm : hi m ≠ 0xFF := fun hones => hne <| (hi_eq_ones _).2 fun k h8 h16 => by
    rw [BitVec.getLsbD_or, (hi_eq_ones m).1 hones k h8 h16]; rfl
  rw [getLsbD_disableMask, h hm]
  simpa [h2.symm] using hne

/-- Line 2 disabled closes the cascade while slave-side lines may be enabled. -/
theorem not_invA_disableMask {n : BitVec 4} {m : Half} (h2 : n.toNat = 2) (hm : hi m ≠ 0xFF) :
    ¬ invA (disableMask n m) := by
  have hhi : hi (m ||| bitOf n) = hi m := hi_congr fun k h8 _ => by
    rw [BitVec.getLsbD_or, getLsbD_bitOf]
    simp [show k ≠ n.toNat by omega]
  intro hA
  have hbit := hA (by rw [hi_disableMask, hhi]; exact hm)
  rw [getLsbD_disableMask] at hbit
  simp [h2] at hbit

end Sys2Proof.Machine

namespace Sys2Proof.Proofs

open Sys2Proof Sys2Proof.Machine Sys2Proof.Claims

/-- Settles O23: a command stores the mask of its step 0, and the cells are those masks' own laws. -/
theorem cascadeInvariantTable : Obligations.CascadeInvariantTable := by
  refine ⟨by decide, by decide, fun s hb hp hg => ⟨_, exec_atomic rfl (State.turnedAway_init hb hp) hg, ?_⟩,
    fun s l hra hl => ?_⟩
  · rw [State.runTxns_irqMask, State.stepZero_irqMask]
    change invA Config.maskBaseline ∧ ¬ invB Config.maskBaseline
    decide
  have hline : ∀ k, some l = some k → LineOk s k := by rintro k ⟨⟩; exact hl
  have hno : (lineOf l).toNat = lineNo l := lineOf_toNat l
  refine ⟨⟨_, exec_readyAtomic hra rfl (by simp) hline, ?_⟩, ⟨_, exec_readyAtomic hra rfl (by simp) hline, ?_⟩,
    fun i hi => ?_⟩
  · rw [State.runTxns_irqMask, State.stepZero_irqMask, State.accept_irqMask, ← hno]
    exact ⟨fun h8 => inv_enableMask_slave _ h8, fun hlt h2 => inv_enableMask_master hlt h2,
      fun h2 => inv_enableMask_cascade _ h2⟩
  · rw [State.runTxns_irqMask, State.stepZero_irqMask, State.accept_irqMask, ← hno]
    exact ⟨invB_disableMask _ _, fun h2 hA => invA_disableMask h2 hA, fun h2 hm => not_invA_disableMask h2 hm⟩
  · obtain ⟨hc, hne, hmask, hlines⟩ := quietCommand hi
    exact ⟨_, exec_readyAtomic hra hc hne (fun k hk => hlines k hk ▸ hl), by
      rw [State.runTxns_irqMask, State.stepZero_irqMask, State.accept_irqMask, hmask]⟩

end Sys2Proof.Proofs
end

section
/-!
SUPPORT and settled statements: the two port primitives and the rows that are one of them each (spec/20_memory.md R41 to
R43, R48 to R50, R57): what they leave of the block, the byte a read answers, and which chip they reach.
-/
namespace Sys2Proof.Machine

open Sys2Proof.Claims

/-! ## The block -/

/-- A write moves no register of the block (R42). -/
theorem State.sameBlock_portWrite (p : Port) (v : Byte) (s : State) : SameBlock s (s.portWrite p v) := by
  constructor <;> simp

/-- Nothing comes back from a write (R42). -/
theorem State.noRead_portWrite (p : Port) (v : Byte) (s : State) : NoRead s (s.portWrite p v) := by
  constructor <;> simp

/-- A read moves READREG's temporary and no register of the block (R43). -/
theorem State.sameBlock_portRead (p : Port) (s : State) : SameBlock s (s.portRead p) := by
  constructor <;> simp

/-! ## The byte a read answers (R49; log entry 7) -/

/-- A canned response answers whatever the port and the chips. -/
theorem State.readByte_answer {s : State} {a : Byte} {rest : List Byte} (p : Port) (h : s.answers = a :: rest) :
    s.readByte p = a := by
  simp only [State.readByte, h]

/-- With no responder the port and the chips have no say: the next canned response, or a draw. -/
theorem State.readByte_noResponder {s : State} (p : Port) (h : s.par.responder = false) :
    s.readByte p = s.answers.headD (Config.draw8 s.draws) := by
  have hn : s.responderByte p = none := by simp [State.responderByte, h]
  unfold State.readByte
  rw [hn]
  cases s.answers <;> rfl

/-! ## The chip behind a port (R41, R48, R50) -/

/-- A byte for the master does not reach the slave. -/
theorem State.chipsTake_slave {s : State} {p : Port} (v : Byte) (h : p = 0x0020 ∨ p = 0x0021) :
    (s.chipsTake p v).slave = s.slave := by
  cases hc : s.par.chipsPresent
  · rw [State.chipsTake_absent p v hc]
  · rcases h with rfl | rfl
    · exact (State.chipsTake_masterCmd v hc).2
    · exact (State.chipsTake_masterData v hc).2

/-- A byte for the slave does not reach the master. -/
theorem State.chipsTake_master {s : State} {p : Port} (v : Byte) (h : p = 0x00A0 ∨ p = 0x00A1) :
    (s.chipsTake p v).master = s.master := by
  cases hc : s.par.chipsPresent
  · rw [State.chipsTake_absent p v hc]
  · rcases h with rfl | rfl
    · exact (State.chipsTake_slaveCmd v hc).2
    · exact (State.chipsTake_slaveData v hc).2

/-- A read of the master's command port moves its selector at most (U5; log entry 12). -/
theorem State.chipsAnswer_masterCmd (s : State) :
    ∃ r, (s.chipsAnswer Config.masterCmd).master = { s.master with rsel := r } ∧
      (s.chipsAnswer Config.masterCmd).slave = s.slave := by
  unfold State.chipsAnswer
  split
  · exact ⟨_, rfl, rfl⟩
  · exact ⟨s.master.rsel, rfl, rfl⟩

/-- A read of the slave's command port moves its selector at most. -/
theorem State.chipsAnswer_slaveCmd (s : State) :
    ∃ r, (s.chipsAnswer Config.slaveCmd).slave = { s.slave with rsel := r } ∧
      (s.chipsAnswer Config.slaveCmd).master = s.master := by
  unfold State.chipsAnswer
  split
  · exact ⟨_, rfl, rfl⟩
  · exact ⟨s.slave.rsel, rfl, rfl⟩

end Sys2Proof.Machine

namespace Sys2Proof.Proofs

open Sys2Proof Sys2Proof.Machine Sys2Proof.Claims

/-- Settles O60. -/
theorem execNeverStops : Obligations.ExecNeverStops := exec_next

/-- Settles O31. -/
theorem portWriteRecorded : Obligations.PortWriteRecorded := fun p v s =>
  ⟨State.portWrite_trace p v s, State.sameBlock_portWrite p v s, State.noRead_portWrite p v s⟩

/-- Settles O32: the byte is the one the port answers once the environment has moved. -/
theorem portReadRecorded : Obligations.PortReadRecorded := by
  refine fun p s => ⟨_, State.portRead_trace p s, State.sameBlock_portRead p s, fun hp => ?_, fun hp => ?_⟩
  · exact (State.portRead_readM p s).trans (if_pos hp)
  · exact (State.portRead_readS p s).trans (if_pos hp)

/-- Settles O33: a write row is `PortWrite` of its port and byte. -/
theorem portWriteRowsComplete : Obligations.PortWriteRowsComplete := fun s _ p v hrow =>
  ⟨_, exec_write (portOp_of_rowWriteOn hrow), State.sameBlock_portWrite p v s, State.noRead_portWrite p v s,
    State.portWrite_trace p v s, State.portWrite_draws p v s⟩

/-- Settles O34: a read row is `PortRead` of its command port, and the two command ports differ. -/
theorem portReadRowsComplete : Obligations.PortReadRowsComplete := by
  intro s i hi
  have hbyte : ∀ p, (∀ a rest, s.answers = a :: rest → s.environment.readByte p = a) ∧
      (s.answers = [] → s.par.responder = false → s.environment.readByte p = Config.draw8 s.draws) := by
    refine fun p => ⟨fun a rest ha => State.readByte_answer p (by simpa using ha), fun ha hr => ?_⟩
    rw [State.readByte_noResponder p (by simpa using hr), State.environment_answers, State.environment_draws, ha]
    rfl
  rcases hi with rfl | rfl
  · exact ⟨_, _, exec_read rfl, State.sameBlock_portRead _ s, State.portRead_draws _ s, State.portRead_answers _ s,
      State.portRead_trace _ s, State.portRead_readM _ s, State.portRead_readS _ s, hbyte _⟩
  · exact ⟨_, _, exec_read rfl, State.sameBlock_portRead _ s, State.portRead_draws _ s, State.portRead_answers _ s,
      State.portRead_trace _ s, State.portRead_readM _ s, State.portRead_readS _ s, hbyte _⟩

/-- Settles O36: the environment's move comes first, and the byte then goes to one chip. -/
theorem portWriteReachesOneChip : Obligations.PortWriteReachesOneChip := by
  refine fun s i p v hrow => ⟨_, exec_write (portOp_of_rowWriteOn hrow), State.chipsTake_slave v,
    State.chipsTake_master v, fun hc => ?_⟩
  rw [State.portWrite_master, State.portWrite_slave, State.environment_absent hc, State.chipsTake_absent p v hc]
  exact ⟨rfl, rfl⟩

/-- Settles O45: the environment's move comes first, and the read then moves one selector. -/
theorem portReadRowsTouchSelectorOnly : Obligations.PortReadRowsTouchSelectorOnly := by
  refine fun s => ⟨?_, ?_⟩
  · obtain ⟨r, hm, hs⟩ := State.chipsAnswer_masterCmd s.environment
    exact ⟨_, r, exec_read rfl, (State.portRead_master _ s).trans hm, (State.portRead_slave _ s).trans hs⟩
  · obtain ⟨r, hs, hm⟩ := State.chipsAnswer_slaveCmd s.environment
    exact ⟨_, r, exec_read rfl, (State.portRead_slave _ s).trans hs, (State.portRead_master _ s).trans hm⟩

end Sys2Proof.Proofs
end

section
/-!
SUPPORT and settled statements: the port trace (spec/20_memory.md R41, R51, R57; spec/30_encoding.md R65 to R67). A
transaction puts the word of its own row on the bus, and nothing else of the machine touches the trace.
-/
namespace Sys2Proof.Machine

/-! ## A trace of rows only -/

/-- Legality looks at the trace and the parameters alone. -/
theorem State.LegalTrace.congr {s t : State} (h : s.LegalTrace) (ht : t.trace = s.trace) (hp : t.par = s.par) :
    t.LegalTrace := by
  rw [State.LegalTrace, ht, hp]
  exact h

/-- One legal event more keeps a trace legal. -/
theorem State.LegalTrace.snoc {s t : State} {e : PortEvent} (h : s.LegalTrace) (he : legalEvent s.par.icwPorts e)
    (ht : t.trace = s.trace ++ [e]) (hp : t.par = s.par) : t.LegalTrace := by
  rw [State.LegalTrace, ht, hp]
  intro f hf
  rcases List.mem_append.1 hf with hf | hf
  · exact h f hf
  · rw [List.mem_singleton.1 hf]
    exact he

/-- A transaction's event is the word of its own row (R65). -/
theorem State.LegalTrace.emit {s : State} (h : s.LegalTrace) (i : Instr) : (s.emit i).LegalTrace := by
  cases ho : portOp s.par.icwPorts i with
  | none => rwa [State.emit_command ((portOp_eq_none_iff _ i).1 ho)]
  | some op =>
    cases op with
    | write p v =>
      rw [State.emit_write ho]
      exact h.snoc (e := .w p v) ⟨i, ho⟩ (State.portWrite_trace ..) (State.portWrite_par ..)
    | read p =>
      rw [State.emit_read ho]
      exact h.snoc (e := .r p _) ⟨i, ho⟩ (State.portRead_trace ..) (State.portRead_par ..)

/-- So does a whole list, one transaction after the other (R51). -/
theorem State.LegalTrace.runTxns {s : State} (h : s.LegalTrace) (l : List Instr) : (State.runTxns l s).LegalTrace := by
  induction l generalizing s with
  | nil => exact h
  | cons i rest ih =>
    have hemit : (State.emit i (s.setTxns rest)).LegalTrace := State.LegalTrace.emit (s := s.setTxns rest) h i
    exact ih (hemit.congr (State.retire_trace _) (State.retire_par _))

/-! ## The ports of the rows (R41, R66) -/

/-- A row that writes writes one of the four ports. -/
theorem port_of_portOp_write {ports : IcwPorts} {i : Instr} {p : Port} {v : Byte}
    (h : portOp ports i = some (.write p v)) : p = 0x0020 ∨ p = 0x0021 ∨ p = 0x00A0 ∨ p = 0x00A1 := by
  have hp : p = Config.masterCmd ∨ p = Config.masterData ∨ p = Config.slaveCmd ∨ p = Config.slaveData := by
    cases ports <;> cases i <;> simp [portOp, icwPort] at h <;> simp [h]
  exact hp

/-- A row that reads reads one of the two command ports. -/
theorem port_of_portOp_read {ports : IcwPorts} {i : Instr} {p : Port} (h : portOp ports i = some (.read p)) :
    p = 0x0020 ∨ p = 0x00A0 := by
  have hp : p = Config.masterCmd ∨ p = Config.slaveCmd := by
    cases i <;> simp [portOp] at h <;> simp [h]
  exact hp

/-! ## The caller's stream -/

/-- No instruction touches what the caller has still to submit. -/
theorem exec_stream {i : Instr} {s t : State} (h : exec i s = .next t) : t.stream = s.stream := by
  cases hi : i.isCommand
  · rw [exec_transaction i s hi] at h
    cases h
    exact State.emit_stream i s
  · rw [exec_command i s hi] at h
    cases h
    rcases perform_cases i s with ⟨r, hp⟩ | ⟨-, -, hp⟩ | ⟨-, -, hp⟩ <;> rw [hp] <;> simp

end Sys2Proof.Machine

namespace Sys2Proof.Proofs

open Sys2Proof Sys2Proof.Machine Sys2Proof.Claims

/-- Settles O55: of the five kinds of step only those that run transactions extend the trace. -/
theorem legalTraceKept : Obligations.LegalTraceKept := by
  intro s t hs h
  cases step_kind h with
  | idle l m ht => subst ht; exact hs
  | latch l i hb hg ht => subst ht; exact hs
  | whole a rest i hb hst hr hg ht =>
    subst ht
    have hstarted : ((s.setStream rest).started i).LegalTrace := hs.congr (by simp) (by simp)
    exact hstarted.runTxns _
  | zero i hb h0 hr ht => subst ht; exact hs.congr (by simp) (by simp)
  | row j rest m u hb h0 hl hu ht =>
    subst hu ht
    have hemit := State.LegalTrace.emit (s := (s.setStream (tick s.stream)).setTxns rest) hs j
    exact hemit.congr (by simp) (by simp)

/-- Settles O56: every event is the word of a row, and the rows name these ports only. -/
theorem legalTraceFourPorts : Obligations.LegalTraceFourPorts := by
  refine fun s hs e he => ⟨?_, ?_⟩
  · rintro p v rfl
    obtain ⟨i, hi⟩ := hs _ he
    exact port_of_portOp_write hi
  · rintro p v rfl
    obtain ⟨i, hi⟩ := hs _ he
    exact port_of_portOp_read hi

/-- Settles O13: a submission that is due is the intruder of the step; one that is not lets a micro-step run, which ticks
the stream and does not touch it otherwise. -/
theorem reentryRefusedInsideACommand : Obligations.ReentryRefusedInsideACommand := by
  intro s w rest hb
  refine ⟨fun hst => ?_, fun k t hst h => ?_⟩
  · have hi : s.intruder = some rest := by simp [State.intruder, hb, hst]
    exact step_reentry hi
  have hn : s.intruder = none := by simp [State.intruder, hb, hst]
  have htick : tick s.stream = ⟨w, .afterMicroSteps k⟩ :: rest := by rw [hst, tick]
  rcases step_cases h with ⟨l, -, hl, -⟩ | ⟨hi, -⟩ | ⟨_, _, _, hi, -⟩ | ⟨_, _, _, hi, -⟩ | ⟨i, -, -, -, -, rfl⟩ |
    ⟨i, l, u, -, -, -, -, hx, rfl⟩
  · rw [hn] at hl; cases hl
  · rw [hb] at hi; cases hi
  · rw [hb] at hi; cases hi
  · rw [hb] at hi; cases hi
  · rw [State.stepZero_stream, State.setStream_stream, htick]
  · rw [State.retire_stream, exec_stream hx, State.setTxns_stream, State.setStream_stream, htick]

end Sys2Proof.Proofs
end

section
/-!
SUPPORT and settled statement: PICSEQ without its chips (spec/20_memory.md R50, spec/40_init.md R84). `State.bare` takes the
chips away; with no responder every operation commutes with it, so that what PICSEQ does is a function of the bare state.
-/
namespace Sys2Proof.Machine

open Sys2Proof.Claims

/-- The same state with the chips absent and nothing in their registers. -/
def State.bare (s : State) : State :=
  { s with par := { s.par with chipsPresent := false }, master := chipAtReset, slave := chipAtReset }

/-- Two states in which PICSEQ is the same are those that differ in their chips alone. -/
theorem State.samePicseq_iff_bare {s t : State} : s.SamePicseq t ↔ s.bare = t.bare := by
  constructor
  · intro h
    have hpar : ({ s.par with chipsPresent := false } : Params) = { t.par with chipsPresent := false } :=
      congrArg (fun p : Params => { p with chipsPresent := false }) h.par
    simp only [State.bare, State.mk.injEq]
    exact ⟨hpar, h.irqMask, h.phase, h.result, h.busy, h.cmd, h.step, h.txns, h.readM, h.readS, trivial, trivial,
      h.trace, h.refusals, h.stream, h.answers, h.draws⟩
  · intro h
    simp only [State.bare, State.mk.injEq] at h
    obtain ⟨hpar, hmask, hphase, hresult, hbusy, hcmd, hstep, htxns, hM, hS, -, -, htrace, hmarks, hstream, hanswers,
      hdraws⟩ := h
    exact ⟨hmask, hphase, hresult, hbusy, hcmd, hstep, htxns, hM, hS, htrace, hmarks, hstream, hanswers, hdraws,
      congrArg (fun p : Params => { p with chipsPresent := true }) hpar⟩

/-! ## A transaction -/

theorem State.bare_environment (s : State) : s.environment.bare = s.bare := by
  unfold State.environment
  split
  · split <;> rfl
  · rfl

theorem State.bare_chipsTake (p : Port) (v : Byte) (s : State) : (s.chipsTake p v).bare = s.bare := by
  unfold State.chipsTake
  repeat' split
  all_goals rfl

theorem State.bare_chipsAnswer (p : Port) (s : State) : (s.chipsAnswer p).bare = s.bare := by
  unfold State.chipsAnswer
  repeat' split
  all_goals rfl

theorem State.bare_latchByte (p : Port) (v : Byte) (s : State) : (s.latchByte p v).bare = s.bare.latchByte p v := by
  unfold State.latchByte
  repeat' split
  all_goals rfl

/-- Without chips a write is its event (R42, R50). -/
theorem State.bare_portWrite (p : Port) (v : Byte) (s : State) : (s.portWrite p v).bare = s.bare.portWrite p v := by
  have hchips : (s.environment.chipsTake p v).bare = s.bare := by rw [State.bare_chipsTake, State.bare_environment]
  have habsent : s.bare.environment.chipsTake p v = s.bare := by
    rw [State.environment_absent rfl, State.chipsTake_absent p v rfl]
  rw [State.portWrite, State.portWrite, habsent, ← hchips]
  rfl

/-- Without chips a read is its event and its temporary, and with no responder its byte is the same (R43, R49, R50). -/
theorem State.bare_portRead (p : Port) {s : State} (hr : s.par.responder = false) :
    (s.portRead p).bare = s.bare.portRead p := by
  have hchips : (s.environment.chipsAnswer p).bare = s.bare := by rw [State.bare_chipsAnswer, State.bare_environment]
  have habsent : s.bare.environment.chipsAnswer p = s.bare := by
    rw [State.environment_absent rfl]
    rfl
  have hbyte : s.bare.environment.readByte p = s.environment.readByte p := by
    rw [State.environment_absent rfl, State.readByte_noResponder (s := s.bare) p hr,
      State.readByte_noResponder p (by simpa using hr), State.environment_answers, State.environment_draws]
    rfl
  rw [State.portRead, State.portRead, habsent, hbyte, ← hchips, ← State.bare_latchByte]
  simp [State.bare]

theorem State.bare_emit (i : Instr) {s : State} (hr : s.par.responder = false) : (s.emit i).bare = s.bare.emit i := by
  cases ho : portOp s.par.icwPorts i with
  | none =>
    rw [State.emit_command ((portOp_eq_none_iff _ i).1 ho), State.emit_command ((portOp_eq_none_iff _ i).1 ho)]
  | some op =>
    cases op with
    | write p v => rw [State.emit_write ho, State.emit_write (s := s.bare) ho, State.bare_portWrite]
    | read p => rw [State.emit_read ho, State.emit_read (s := s.bare) ho, State.bare_portRead p hr]

/-! ## The sequencer -/

theorem State.bare_complete (s : State) : s.complete.bare = s.bare.complete := by
  have hcmd : s.bare.cmd = s.cmd := rfl
  unfold State.complete
  rw [hcmd]
  split <;> rfl

theorem State.bare_retire (s : State) : s.retire.bare = s.bare.retire := by
  cases hl : s.txns with
  | cons i rest => rw [State.retire_cons hl, State.retire_cons (s := s.bare) hl]; rfl
  | nil =>
    rw [State.retire_nil hl, State.retire_nil (s := s.bare) hl, ← State.bare_complete]
    rfl

theorem State.bare_runTxns (l : List Instr) {s : State} (hr : s.par.responder = false) :
    (State.runTxns l s).bare = State.runTxns l s.bare := by
  induction l generalizing s with
  | nil => rfl
  | cons i rest ih =>
    have hemit : (State.emit i (s.setTxns rest)).bare = State.emit i (s.bare.setTxns rest) := State.bare_emit i hr
    rw [State.runTxns, State.runTxns, ih (by simpa using hr), State.bare_retire, hemit]

theorem State.bare_stepZero (i : Instr) (s : State) : (s.stepZero i).bare = s.bare.stepZero i := by
  cases i <;> rfl

/-- Admission, and at the atomic grain the whole command. -/
theorem State.bare_perform (i : Instr) {s : State} (hr : s.par.responder = false) :
    (s.perform i (State.stepZero i)).bare = s.bare.perform i (State.stepZero i) := by
  have hadmit : s.bare.turnedAway i = s.turnedAway i := rfl
  cases ht : s.turnedAway i with
  | some r => rw [State.perform_turnedAway _ ht, State.perform_turnedAway _ (hadmit.trans ht)]; rfl
  | none =>
    cases hg : s.par.grain with
    | microStep => rw [State.perform_micro _ ht hg, State.perform_micro _ (hadmit.trans ht) hg]; rfl
    | atomic =>
      have hstarted : (s.bare.accept (encodeCmd i)).stepZero i = (s.started i).bare :=
        (State.bare_stepZero i (s.accept (encodeCmd i))).symm
      rw [State.perform_atomic _ ht hg, State.perform_atomic _ (hadmit.trans ht) hg, hstarted,
        State.bare_runTxns _ (by simpa using hr)]
      rfl

theorem exec_bare {i : Instr} {s t : State} (hr : s.par.responder = false) (h : exec i s = .next t) :
    exec i s.bare = .next t.bare := by
  cases hi : i.isCommand
  · rw [exec_transaction i s hi] at h
    cases h
    rw [exec_transaction i _ hi, State.bare_emit i hr]
  · rw [exec_command i s hi] at h
    cases h
    rw [exec_command i _ hi, State.bare_perform i hr]

/-- States that differ in their chips alone execute an instruction to states that differ in their chips alone. -/
theorem exec_congr_bare {i : Instr} {s t s' : State} (hr : s.par.responder = false) (hst : s.bare = t.bare)
    (h : exec i s = .next s') : ∃ t', exec i t = .next t' ∧ s'.bare = t'.bare := by
  obtain ⟨t', ht⟩ := exec_next i t
  have hrt : t.par.responder = false := (congrArg (fun u : State => u.par.responder) hst).symm.trans hr
  have hbare : Host.Outcome.next s'.bare = .next t'.bare :=
    (exec_bare hr h).symm.trans (hst ▸ exec_bare hrt ht)
  exact ⟨t', ht, Host.Outcome.next.inj hbare⟩

/-- Both states take the same case of the step, for the cases do not look at the chips. -/
theorem State.SamePicseq.step_next {s t s' : State} (hst : s.SamePicseq t) (hr : s.par.responder = false)
    (h : Machine.step s = .next s') : ∃ t', Machine.step t = .next t' ∧ s'.bare = t'.bare := by
  have hb : s.bare = t.bare := State.samePicseq_iff_bare.1 hst
  have hintruder : t.intruder = s.intruder := by rw [State.intruder, State.intruder, hst.busy, hst.stream]
  have hstream : ∀ l, (s.setStream l).bare = (t.setStream l).bare := fun l => congrArg (State.setStream l) hb
  rcases step_cases h with ⟨rest, hbusy, hi, rfl⟩ | ⟨hbusy, hs, rfl⟩ | ⟨a, rest, r, hbusy, hs, hread, rfl⟩ |
    ⟨a, rest, i, hbusy, hs, hread, hx⟩ | ⟨i, hbusy, hi, h0, hread, rfl⟩ | ⟨i, rest, u, hbusy, hi, h0, hl, hx, rfl⟩
  · exact ⟨_, step_reentry (hintruder.trans hi), congrArg (State.refuse .reentry) (hstream rest)⟩
  · exact ⟨t, step_ended (hst.busy ▸ hbusy) (hst.stream ▸ hs), hb⟩
  · exact ⟨_, step_reserved (rest := rest) (hst.busy ▸ hbusy) (hst.stream ▸ hs) hread,
      congrArg (State.refuse r) (hstream rest)⟩
  · obtain ⟨t', ht, hs'⟩ := exec_congr_bare (by simpa using hr) (hstream rest) hx
    exact ⟨t', (step_command (hst.busy ▸ hbusy) (hst.stream ▸ hs) hread).trans ht, hs'⟩
  · refine ⟨_, step_zero (hst.busy ▸ hbusy) (hintruder.trans hi) (hst.step ▸ h0) (hst.cmd ▸ hread), ?_⟩
    rw [State.bare_stepZero, State.bare_stepZero, hst.stream, hstream]
  · have hrow : ((s.setStream (tick s.stream)).setTxns rest).bare = ((t.setStream (tick t.stream)).setTxns rest).bare := by
      rw [hst.stream]
      exact congrArg (State.setTxns rest) (hstream _)
    obtain ⟨v, hv, huv⟩ := exec_congr_bare (by simpa using hr) hrow hx
    refine ⟨_, step_transaction (hst.busy ▸ hbusy) (hintruder.trans hi) (hst.step ▸ h0) (hst.txns ▸ hl) hv, ?_⟩
    rw [State.bare_retire, State.bare_retire, huv]

end Sys2Proof.Machine

namespace Sys2Proof.Proofs

open Sys2Proof Sys2Proof.Machine Sys2Proof.Claims

/-- Settles O59: a step of two states that differ in their chips alone leaves two such states. -/
theorem picseqIndependentOfChips : Obligations.PicseqIndependentOfChips := by
  intro s t s' hst hr h
  obtain ⟨t', ht, hbare⟩ := hst.step_next hr h
  exact ⟨t', ht, State.samePicseq_iff_bare.2 hbare⟩

end Sys2Proof.Proofs
end

section
/-!
SUPPORT and settled statement: RDIRR and RDISR as one atomic step (spec/20_memory.md R47, R49, spec/43_diag_reads.md R110 to
R115): the selector twice to the master, one read of each command port, and the result from the two temporaries.
-/
namespace Sys2Proof.Machine

open Sys2Proof.Claims

/-- What READREG does with the selector byte `v` where its two reads, of `p` and then of `q`, answer `a` and `b` (R112). -/
structure ReadReg (v : Byte) (p q : Port) (a b : Byte) (s t : State) : Prop where
  trace : t.trace = s.trace ++ [.w 0x0020 v, .w 0x0020 v, .r p a, .r q b]
  answers : t.answers = s.answers.drop 2
  draws : t.draws = s.draws + 4
  readM : t.readM = if q = Config.masterCmd then b else if p = Config.masterCmd then a else s.readM
  readS : t.readS = if q = Config.slaveCmd then b else if p = Config.slaveCmd then a else s.readS
  result : t.result = pair t.readS t.readM
  canned : ∀ x y rest, s.answers = x :: y :: rest → a = x ∧ b = y
  drawn : s.answers = [] → s.par.responder = false → a = Config.draw8 (s.draws + 2) ∧ b = Config.draw8 (s.draws + 3)

/-- The two selector writes come first, and the reads see nothing of them but the counter of the draws. -/
theorem State.runTxns_selectors {s : State} {sel j : Instr} {v : Byte} (rest : List Instr)
    (hsel : portOp s.par.icwPorts sel = some (.write 0x0020 v)) :
    ∃ u, State.runTxns (sel :: sel :: j :: rest) s = State.runTxns (j :: rest) u ∧ u.par = s.par ∧ u.cmd = s.cmd ∧
      u.trace = s.trace ++ [.w 0x0020 v, .w 0x0020 v] ∧ u.answers = s.answers ∧ u.draws = s.draws + 2 ∧
      u.readM = s.readM ∧ u.readS = s.readS := by
  have hfirst : State.emit sel (s.setTxns (sel :: j :: rest)) = (s.setTxns (sel :: j :: rest)).portWrite 0x0020 v :=
    State.emit_write hsel
  rw [State.runTxns_more, State.runTxns_more, hfirst, State.emit_write (by simpa using hsel)]
  exact ⟨_, rfl, by simp⟩

/-- READREG's list, run to the end of an RDIRR or RDISR (R112, R115). -/
theorem State.runTxns_readReg {s : State} {i sel j k : Instr} {v : Byte} {p q : Port} (hi : i = .rdirr ∨ i = .rdisr)
    (hc : readCmd s.cmd = .ok i) (hsel : portOp s.par.icwPorts sel = some (.write 0x0020 v))
    (hj : portOp s.par.icwPorts j = some (.read p)) (hk : portOp s.par.icwPorts k = some (.read q)) :
    ∃ a b, ReadReg v p q a b s (State.runTxns [sel, sel, j, k] s) := by
  obtain ⟨u, hu, hpar, hcmd, htrace, hanswers, hdraws, hM, hS⟩ := State.runTxns_selectors (j := j) [k] hsel
  have hfirst : State.emit j (u.setTxns [k]) = (u.setTxns [k]).portRead p := State.emit_read (by simpa [hpar] using hj)
  have hsecond : State.emit k (((u.setTxns [k]).portRead p).advance.setTxns []) =
      (((u.setTxns [k]).portRead p).advance.setTxns []).portRead q := State.emit_read (by simpa [hpar] using hk)
  rw [hu, State.runTxns_more, hfirst, State.runTxns_last, hsecond, State.complete_read (by simpa [hcmd] using hc) hi]
  refine ⟨(u.setTxns [k]).environment.readByte p,
    (((u.setTxns [k]).portRead p).advance.setTxns []).environment.readByte q, ?_⟩
  constructor
  case trace => simp [htrace]
  case answers =>
    have htail : s.answers.tail.tail = s.answers.drop 2 := by
      rw [← List.drop_one, ← List.drop_one, List.drop_drop]
    simpa [hanswers] using htail
  case draws => simp [hdraws]
  case readM => simp [hM]
  case readS => simp [hS]
  case result => simp
  case canned =>
    intro x y rest hs
    exact ⟨State.readByte_answer p (rest := y :: rest) (by simpa [hanswers] using hs),
      State.readByte_answer q (rest := rest) (by simp [hanswers, hs])⟩
  case drawn =>
    intro hs hr
    rw [State.readByte_noResponder p (by simpa [hpar] using hr), State.readByte_noResponder q (by simpa [hpar] using hr)]
    simp [hanswers, hs, hdraws]

/-- The selector row of a register read (R110, R111). -/
def selectorRow (i : Instr) : Instr := if i = .rdirr then .selIrr else .selIsr

theorem portOp_selectorRow (ports : IcwPorts) (i : Instr) :
    portOp ports (selectorRow i) = some (.write 0x0020 (if i = .rdirr then 0x0A else 0x0B)) := by
  unfold selectorRow
  split <;> rfl

theorem State.started_txns_read {i : Instr} (s : State) (h : i = .rdirr ∨ i = .rdisr) :
    (s.started i).txns = readRegTxns (selectorRow i) s.par.readOrder := by
  rcases h with rfl | rfl <;> rfl

/-! ## The frame of a whole command -/

/-- A command run whole is completed, its list making so many transactions (R16). -/
theorem State.completed_runTxns {s : State} {i : Instr} {n : Nat} (hi : i.isCommand = true)
    (hn : (State.runTxns (s.started i).txns (s.started i)).draws = s.draws + n) :
    Completed s (State.runTxns (s.started i).txns (s.started i)) (encodeCmd i) n := by
  obtain ⟨hbusy, hstep, htxns⟩ := State.runTxns_ends _ (s.started i) (State.started_txns_ne_nil s hi)
  exact ⟨hbusy, hstep, htxns, by simp, by simp, by simp, by simp, hn⟩

/-- No command but INIT moves `phase` (R14). -/
theorem State.phase_runTxns {s : State} {i : Instr} (hi : i.isCommand = true) (hne : i ≠ .init) :
    (State.runTxns (s.started i).txns (s.started i)).phase = s.phase := by
  rw [State.runTxns_phase _ _ (State.started_txns_ne_nil s hi), State.readCmd_started s hi,
    if_neg fun e => hne (Except.ok.inj e), State.stepZero_phase, State.accept_phase]

end Sys2Proof.Machine

namespace Sys2Proof.Proofs

open Sys2Proof Sys2Proof.Machine Sys2Proof.Claims

/-- Settles O20: READREG's list in either order; the byte of each port goes to its own temporary. -/
theorem readRegAtomicEffect : Obligations.ReadRegAtomicEffect := by
  intro s i hra hi
  obtain ⟨hc, hne, hmask, -⟩ := quietCommand (l := 0) (.inr hi)
  have hx := exec_readyAtomic hra hc hne (by rcases hi with rfl | rfl <;> nofun)
  have hword : encodeCmd i = if i = .rdirr then 0x0500 else 0x0600 := by rcases hi with rfl | rfl <;> rfl
  have hirq : (State.runTxns (s.started i).txns (s.started i)).irqMask = s.irqMask := by simp [hmask]
  have hlist := State.started_txns_read s hi
  have hdone (hd : (State.runTxns (s.started i).txns (s.started i)).draws = (s.started i).draws + 4) :
      Completed s (State.runTxns (s.started i).txns (s.started i)) (if i = .rdirr then 0x0500 else 0x0600) 4 :=
    hword ▸ State.completed_runTxns hc (by simpa using hd)
  cases ho : s.par.readOrder with
  | masterFirst =>
    have hrows : (s.started i).txns = [selectorRow i, selectorRow i, .rdM, .rdS] := by rw [hlist, ho]; rfl
    obtain ⟨mb, sb, h⟩ := State.runTxns_readReg (s := s.started i) (j := .rdM) (k := .rdS) (p := 0x0020) (q := 0x00A0)
      hi (State.readCmd_started s hc) (portOp_selectorRow _ i) rfl rfl
    rw [← hrows] at h
    have hM : _ = mb := h.readM
    have hS : _ = sb := h.readS
    exact ⟨_, mb, sb, hx, hdone h.draws, hirq, State.phase_runTxns hc hne, h.result.trans (by rw [hM, hS]; rfl), hM, hS,
      by simpa using h.answers, by simpa using h.trace, by simpa using h.canned, by simpa using h.drawn⟩
  | slaveFirst =>
    have hrows : (s.started i).txns = [selectorRow i, selectorRow i, .rdS, .rdM] := by rw [hlist, ho]; rfl
    obtain ⟨sb, mb, h⟩ := State.runTxns_readReg (s := s.started i) (j := .rdS) (k := .rdM) (p := 0x00A0) (q := 0x0020)
      hi (State.readCmd_started s hc) (portOp_selectorRow _ i) rfl rfl
    rw [← hrows] at h
    have hM : _ = mb := h.readM
    have hS : _ = sb := h.readS
    exact ⟨_, mb, sb, hx, hdone h.draws, hirq, State.phase_runTxns hc hne, h.result.trans (by rw [hM, hS]; rfl), hM, hS,
      by simpa using h.answers, by simpa using h.trace, by simpa [and_comm] using h.canned,
      by simpa [and_comm] using h.drawn⟩

end Sys2Proof.Proofs
end

section
/-!
SUPPORT and settled statements: the encodings (spec/30_encoding.md). A port word is the word of a port operation, and the
decoder of port operations and the table of the rows are each other's inverse (R65 to R67); a command word is read by its
operation code and its low byte (R60, R61, R63).
-/
namespace Sys2Proof

/-! ## Port words (R65 to R67) -/

/-- The word of a port operation (R65). -/
def PortOp.word : PortOp → CodeWord
  | .write p v => .portw (p ++ v)
  | .read p => .portr p

/-- The row a port operation stands for at a position: the decoder of port words, with the port and the byte apart. -/
def decodeOp (ports : IcwPorts) (icw : Bool) : PortOp → Except Reject Instr
  | .write p v => if icw then decodeIcw ports p v else decodeWrite p v
  | .read p => decodeRead p

theorem decode_word (ports : IcwPorts) (icw : Bool) (op : PortOp) :
    decode ports icw op.word = decodeOp ports icw op := by
  cases op with
  | write p v => simp only [PortOp.word, decode, decodeOp, portw_fields]
  | read p => rfl

theorem encode_transaction {ports : IcwPorts} {i : Instr} {op : PortOp} (h : portOp ports i = some op) :
    encode ports i = op.word := by
  cases op <;> simp only [encode, h, PortOp.word]

theorem encode_command {i : Instr} (ports : IcwPorts) (h : i.isCommand = true) :
    encode ports i = .cmd16 (encodeCmd i) := by
  simp only [encode, (Machine.portOp_eq_none_iff ports i).2 h]

/-- Every code word is a command word or the word of a port operation. -/
theorem codeWord_cases (c : CodeWord) : (∃ w, c = .cmd16 w) ∨ ∃ op : PortOp, c = op.word := by
  cases c with
  | cmd16 w => exact .inl ⟨w, rfl⟩
  | portw w =>
    exact .inr ⟨.write (w.extractLsb' 8 16) (w.extractLsb' 0 8), congrArg CodeWord.portw (portw_of_fields w).symm⟩
  | portr w => exact .inr ⟨.read w, rfl⟩

/-- A row's operation is read as the row, at the position at which the row stands (R67). -/
theorem decodeOp_portOp {ports : IcwPorts} {i : Instr} {op : PortOp} (h : portOp ports i = some op) :
    decodeOp ports i.atIcwPosition op = .ok i := by
  cases i <;> cases h <;> cases ports <;> rfl

theorem portOp_of_decodeIcw {ports : IcwPorts} {p : Port} {v : Byte} {i : Instr} (h : decodeIcw ports p v = .ok i) :
    portOp ports i = some (.write p v) := by
  unfold decodeIcw at h
  split_ifs at h with hp hv hv hv hp hv hv hv <;> cases h <;> rw [hp, hv] <;> rfl

theorem portOp_of_decodeWrite (ports : IcwPorts) {p : Port} {v : Byte} {i : Instr} (h : decodeWrite p v = .ok i) :
    portOp ports i = some (.write p v) := by
  unfold decodeWrite at h
  split_ifs at h <;> cases h <;> simp only [portOp, *]

theorem portOp_of_decodeRead (ports : IcwPorts) {p : Port} {i : Instr} (h : decodeRead p = .ok i) :
    portOp ports i = some (.read p) := by
  unfold decodeRead at h
  split_ifs at h with hm hs <;> cases h
  · rw [hm]; rfl
  · rw [hs]; rfl

/-- An operation that is read as a row is that row's operation, at either position. -/
theorem portOp_of_decodeOp {ports : IcwPorts} {icw : Bool} {op : PortOp} {i : Instr}
    (h : decodeOp ports icw op = .ok i) : portOp ports i = some op := by
  cases op with
  | write p v =>
    cases icw
    · exact portOp_of_decodeWrite ports h
    · exact portOp_of_decodeIcw h
  | read p => exact portOp_of_decodeRead ports h

/-- No port transaction has a line operand (R60, R65). -/
theorem wf_of_portOp {ports : IcwPorts} {i : Instr} {op : PortOp} (h : portOp ports i = some op) : i.wf = true := by
  cases i <;> cases h <;> rfl

/-! ## Command words (R60, R61, R63) -/

theorem decodeCmd_error {w : Half} {r : Reject} (h : readCmd w = .error r) : decodeCmd w = .error r := by
  simp only [decodeCmd, h]

theorem decodeCmd_wf {w : Half} {i : Instr} (h : readCmd w = .ok i) (hi : i.wf = true) : decodeCmd w = .ok i := by
  simp only [decodeCmd, h, hi, if_true]

theorem decodeCmd_not_wf {w : Half} {i : Instr} (h : readCmd w = .ok i) (hi : i.wf = false) :
    decodeCmd w = .error .lineOutOfRange := by
  simp [decodeCmd, h, hi]

/-- A decoded command word is a read one, and the command is well-formed. -/
theorem readCmd_of_decodeCmd {w : Half} {i : Instr} (h : decodeCmd w = .ok i) : readCmd w = .ok i ∧ i.wf = true := by
  cases hr : readCmd w with
  | error r => rw [decodeCmd_error hr] at h; cases h
  | ok j =>
    cases hj : j.wf with
    | false => rw [decodeCmd_not_wf hr hj] at h; cases h
    | true => rw [decodeCmd_wf hr hj] at h; cases h; exact ⟨rfl, hj⟩

theorem wf_line {i : Instr} {l : Byte} (h : i.line? = some l) : i.wf = decide (l.toNat < 16) := by
  simp only [Instr.wf, h, lineInRange]

theorem Instr.ne_init_of_line {i : Instr} {l : Byte} (h : i.line? = some l) : i ≠ .init := by
  rintro rfl
  cases h

theorem wf_no_line {i : Instr} (h : i.line? = none) : i.wf = true := by
  simp only [Instr.wf, h]

/-- What a command word reads as, by its operation code and its low byte (R63 checks 2 and 3). -/
inductive CmdReading (w : Half) : Prop
  | reservedOp (hop : w.toNat / 256 = 0 ∨ 7 ≤ w.toNat / 256) (hr : readCmd w = .error .reservedOp)
  | reservedOperand (hop : w.toNat / 256 = 1 ∨ w.toNat / 256 = 5 ∨ w.toNat / 256 = 6) (hlow : w.toNat % 256 ≠ 0)
      (hr : readCmd w = .error .reservedOperand)
  | init (hop : w.toNat / 256 = 1) (hlow : w.toNat % 256 = 0) (hr : readCmd w = .ok .init)
  | registerRead (i : Instr) (hne : i ≠ .init) (hl : i.line? = none) (hop : w.toNat / 256 = 5 ∨ w.toNat / 256 = 6)
      (hlow : w.toNat % 256 = 0) (hr : readCmd w = .ok i)
  | lineCommand (i : Instr) (l : Byte) (hl : i.line? = some l)
      (hop : w.toNat / 256 = 2 ∨ w.toNat / 256 = 3 ∨ w.toNat / 256 = 4) (hlow : l.toNat = w.toNat % 256)
      (hr : readCmd w = .ok i)

/-- An operation without operand is taken exactly with a low byte of zero (R63 check 3). -/
theorem cmdReading_of_noOperand {w : Half} {i : Instr} (hr : readCmd w = noOperand w i)
    (hop : (w.toNat / 256 = 1 ∧ i = .init) ∨
      ((w.toNat / 256 = 5 ∨ w.toNat / 256 = 6) ∧ i ≠ .init ∧ i.line? = none)) : CmdReading w := by
  by_cases h : lineField w = 0
  · have hlow : w.toNat % 256 = 0 := (lineField_eq_zero w).1 h
    rw [noOperand, if_pos h] at hr
    rcases hop with ⟨hop, rfl⟩ | ⟨hop, hne, hl⟩
    · exact .init hop hlow hr
    · exact .registerRead i hne hl hop hlow hr
  · rw [noOperand, if_neg h] at hr
    exact .reservedOperand (by omega) (mt (lineField_eq_zero w).2 h) hr

theorem cmdReading (w : Half) : CmdReading w := by
  have hop := opField_toNat w
  have hlow := lineField_toNat w
  obtain ⟨r, hr⟩ : ∃ r, readCmd w = r := ⟨_, rfl⟩
  have hread := hr
  rw [readCmd] at hread
  split at hread
  case h_1 ho => exact cmdReading_of_noOperand (hr.trans hread.symm) (.inl ⟨by omega, rfl⟩)
  case h_2 ho => exact .lineCommand _ _ rfl (by omega) hlow (hr.trans hread.symm)
  case h_3 ho => exact .lineCommand _ _ rfl (by omega) hlow (hr.trans hread.symm)
  case h_4 ho => exact .lineCommand _ _ rfl (by omega) hlow (hr.trans hread.symm)
  case h_5 ho => exact cmdReading_of_noOperand (hr.trans hread.symm) (.inr ⟨by omega, nofun, rfl⟩)
  case h_6 ho => exact cmdReading_of_noOperand (hr.trans hread.symm) (.inr ⟨by omega, nofun, rfl⟩)
  case h_7 h1 h2 h3 h4 h5 h6 => exact .reservedOp (by simp only [imp_false] at *; omega) (hr.trans hread.symm)

end Sys2Proof

namespace Sys2Proof.Proofs

open Sys2Proof Sys2Proof.Machine Sys2Proof.Claims

/-- Settles O4: a command's word reads as the command, a row's operation as the row. -/
theorem encodeThenDecode : Obligations.EncodeThenDecode := by
  intro ports i hwf
  cases hop : portOp ports i with
  | none =>
    have hi := (portOp_eq_none_iff ports i).1 hop
    rw [encode_command ports hi]
    exact decodeCmd_wf (readCmd_encodeCmd i hi) hwf
  | some op => rw [encode_transaction hop, decode_word, decodeOp_portOp hop]

/-- Settles O5, format by format: a command word, or the word of a port operation. -/
theorem decodeThenEncode : Obligations.DecodeThenEncode := by
  intro ports icw c i h
  rcases codeWord_cases c with ⟨w, rfl⟩ | ⟨op, rfl⟩
  · obtain ⟨hr, hwf⟩ := readCmd_of_decodeCmd h
    obtain ⟨hw, hi⟩ := encodeCmd_of_readCmd w i hr
    exact ⟨by rw [encode_command ports hi, hw], hwf⟩
  · rw [decode_word] at h
    have hop := portOp_of_decodeOp h
    exact ⟨encode_transaction hop, wf_of_portOp hop⟩

/-- Settles O6: each name has its own readings, and the readings exclude each other. -/
theorem reservedWordsRejected : Obligations.ReservedWordsRejected := by
  intro w
  cases cmdReading w with
  | reservedOp hop hr => simp [decodeCmd_error hr]; omega
  | reservedOperand hop hlow hr => simp [decodeCmd_error hr]; omega
  | init hop hlow hr => simp [decodeCmd_wf hr rfl]; omega
  | registerRead i hne hl hop hlow hr => simp [decodeCmd_wf hr (wf_no_line hl)]; omega
  | lineCommand i l hl hop hlow hr =>
    by_cases hrange : l.toNat < 16
    · simp [decodeCmd_wf hr (by simpa [wf_line hl] using hrange)]; omega
    · simp [decodeCmd_not_wf hr (by simpa [wf_line hl] using hrange)]; omega

/-- Settles O3: the words are read as written out in R61 and R66. -/
theorem tableWordsDecode : Obligations.TableWordsDecode := by
  unfold Obligations.TableWordsDecode
  decide

end Sys2Proof.Proofs
end

section
/-!
SUPPORT and settled statements: admission (spec/30_encoding.md R63, R64): where a command is turned away, and that the checks
of a submitted word come to the reading of the word and then the checks of its command.
-/
namespace Sys2Proof.Machine

open Sys2Proof.Claims

/-! ## The checks of a command, one by one -/

/-- Check 4: a line that is not taken (R64). -/
theorem State.turnedAway_line {s : State} {i : Instr} {l : Byte} (hb : s.busy = false) (hl : i.line? = some l)
    (ht : lineTaken s.par.lineOor l = false) : s.turnedAway i = some .lineOutOfRange := by
  have hne : i ≠ .init := Instr.ne_init_of_line hl
  simp [State.turnedAway, hb, hne, hl, ht]

/-- Check 5: before INIT. -/
theorem State.turnedAway_beforeInit {s : State} {i : Instr} (hb : s.busy = false) (hne : i ≠ .init)
    (hl : ∀ l, i.line? = some l → lineTaken s.par.lineOor l = true) (hp : s.phase = .uninitialized) :
    s.turnedAway i = some .beforeInit := by
  cases hv : i.line? with
  | none => simp [State.turnedAway, hb, hne, hv, hp]
  | some l => simp [State.turnedAway, hb, hne, hv, hl l hv, hp]

/-- Check 6: a second INIT. -/
theorem State.turnedAway_secondInit {s : State} (hb : s.busy = false) (hp : s.phase = .ready) :
    s.turnedAway .init = some .secondInit := by
  simp [State.turnedAway, hb, hp]

theorem exec_turnedAway {s : State} {i : Instr} {r : Reject} (hi : i.isCommand = true) (h : s.turnedAway i = some r) :
    exec i s = .next (s.refuse r) := by
  rw [exec_command i s hi, State.perform_turnedAway _ h]

/-- A line is not taken if it is out of range and `LINE_OOR` refuses it (R64). -/
theorem lineTaken_eq_false_iff (oor : LineOor) (l : Byte) :
    lineTaken oor l = false ↔ 16 ≤ l.toNat ∧ oor = .refuse := by
  cases oor <;> simp [lineTaken, lineInRange]

/-! ## The checks of a submitted word -/

theorem admission_busy {s : State} (w : Half) (hb : s.busy = true) : admission s w = some .reentry := if_pos hb

/-- Checks 2 and 3 are those of the word's reading. -/
theorem admission_of_error {s : State} {w : Half} {r : Reject} (hb : s.busy = false) (h : readCmd w = .error r) :
    admission s w = some r := by
  have hidle : ¬s.busy = true := by simp [hb]
  cases cmdReading w with
  | reservedOp hop hr =>
    cases h.symm.trans hr
    rw [admission, if_neg hidle, if_pos hop]
  | reservedOperand hop hlow hr =>
    cases h.symm.trans hr
    rw [admission, if_neg hidle, if_neg (by omega), if_pos ⟨hop, hlow⟩]
  | init hop hlow hr => cases h.symm.trans hr
  | registerRead i hne hl hop hlow hr => cases h.symm.trans hr
  | lineCommand i l hl hop hlow hr => cases h.symm.trans hr

/-- The other checks of a word are those of the command it reads as. -/
theorem admission_of_ok {s : State} {w : Half} {i : Instr} (hb : s.busy = false) (h : readCmd w = .ok i) :
    admission s w = s.turnedAway i := by
  have hidle : ¬s.busy = true := by simp [hb]
  cases cmdReading w with
  | reservedOp hop hr => cases h.symm.trans hr
  | reservedOperand hop hlow hr => cases h.symm.trans hr
  | init hop hlow hr =>
    cases h.symm.trans hr
    rw [admission, if_neg hidle, if_neg (by omega), if_neg (by omega), if_neg (by omega), if_neg (by omega)]
    simp [State.turnedAway, hb, hop]
  | registerRead j hne hl hop hlow hr =>
    cases h.symm.trans hr
    have hop1 : w.toNat / 256 ≠ 1 := by omega
    rw [admission, if_neg hidle, if_neg (by omega), if_neg (by omega), if_neg (by omega)]
    simp [State.turnedAway, hb, hne, hl, hop1]
  | lineCommand j l hl hop hlow hr =>
    cases h.symm.trans hr
    have hne : i ≠ .init := Instr.ne_init_of_line hl
    have hop1 : w.toNat / 256 ≠ 1 := by omega
    rw [admission, if_neg hidle, if_neg (by omega), if_neg (by omega), ← hlow]
    cases ht : lineTaken s.par.lineOor l with
    | false => rw [if_pos ⟨hop, (lineTaken_eq_false_iff _ _).1 ht⟩, State.turnedAway_line hb hl ht]
    | true =>
      have htaken : ¬(16 ≤ l.toNat ∧ s.par.lineOor = .refuse) := by simp [← lineTaken_eq_false_iff, ht]
      rw [if_neg fun hline => htaken hline.2]
      simp [State.turnedAway, hb, hne, hl, ht, hop1]

end Sys2Proof.Machine

namespace Sys2Proof.Proofs

open Sys2Proof Sys2Proof.Machine Sys2Proof.Claims

/-- Settles O12: re-entry, then what the word reads as, then the checks of the command. -/
theorem admissionChecksInOrder : Obligations.AdmissionChecksInOrder := by
  intro s w tm rest hs hbusy
  by_cases hb : s.busy = true
  · have hi : s.intruder = some rest := by simp [State.intruder, hb, hs, hbusy hb]
    rw [admission_busy w hb]
    exact ⟨fun r hr => by cases hr; exact step_reentry hi, nofun⟩
  · rw [Bool.not_eq_true] at hb
    cases hw : readCmd w with
    | error e =>
      rw [admission_of_error hb hw]
      exact ⟨fun r hr => by cases hr; exact step_reserved hb hs hw, nofun⟩
    | ok i =>
      obtain ⟨hword, hi⟩ := encodeCmd_of_readCmd w i hw
      rw [admission_of_ok hb hw, step_command hb hs hw]
      refine ⟨fun r hr => exec_turnedAway (s := s.setStream rest) hi hr, fun hr hg => ?_⟩
      rw [exec_command i _ hi, State.perform_micro (s := s.setStream rest) _ hr hg, hword]
      rfl

/-- Settles O15: each clause is one check, the checks before it having passed. -/
theorem commandsTurnedAway : Obligations.CommandsTurnedAway := by
  intro s i hi
  refine ⟨fun hb => exec_turnedAway hi (State.turnedAway_busy hb), fun hb hwf ho => ?_, fun hb hok hne hp => ?_,
    fun hb he hp => ?_⟩
  · cases hl : i.line? with
    | none => rw [wf_no_line hl] at hwf; cases hwf
    | some l =>
      rw [wf_line hl] at hwf
      exact exec_turnedAway hi (State.turnedAway_line hb hl (by rw [ho]; exact hwf))
  · refine exec_turnedAway hi (State.turnedAway_beforeInit hb hne (fun l hl => lineTaken_of_lineOk ?_) hp)
    exact hok.imp_left fun hwf => by simpa [wf_line hl] using hwf
  · subst he
    exact exec_turnedAway hi (State.turnedAway_secondInit hb hp)

end Sys2Proof.Proofs
end

section
/-!
SUPPORT and settled statement: a line operand acts as its value modulo 16 (spec/30_encoding.md R64). The transactions of a
command look at the latched word for the line an end-of-interrupt byte is for and for what the end of the command adds, and
words that differ in `LZ` alone agree in both.
-/
namespace Sys2Proof.Machine

open Sys2Proof.Claims

/-! ## Line commands that differ in `LZ` alone -/

/-- The same line command on the same line, whatever `LZ` holds (R60, R62). -/
inductive SameLine : Instr → Instr → Prop
  | enable {l k : Byte} (h : lineOf l = lineOf k) : SameLine (.enable l) (.enable k)
  | disable {l k : Byte} (h : lineOf l = lineOf k) : SameLine (.disable l) (.disable k)
  | eoi {l k : Byte} (h : lineOf l = lineOf k) : SameLine (.eoi l) (.eoi k)

theorem lineOf_congr {l k : Byte} (h : l.toNat % 16 = k.toNat) : lineOf l = lineOf k :=
  BitVec.eq_of_toNat_eq (by rw [lineOf_toNat, lineOf_toNat]; omega)

theorem SameLine.maskAfter_eq {i j : Instr} (h : SameLine i j) (m : Half) : maskAfter i m = maskAfter j m := by
  cases h with
  | enable h | disable h => simp only [maskAfter, h]
  | eoi h => rfl

theorem SameLine.txnsOf_eq {i j : Instr} (h : SameLine i j) (s : State) : txnsOf i s = txnsOf j s := by
  cases h with
  | enable h | disable h => rfl
  | eoi h => simp only [txnsOf, eoiTxns, h]

theorem SameLine.isCommand {i j : Instr} (h : SameLine i j) : i.isCommand = true ∧ j.isCommand = true := by
  cases h <;> exact ⟨rfl, rfl⟩

/-- Both have a line operand, so neither is INIT, RDIRR or RDISR. -/
theorem SameLine.line {i j : Instr} (h : SameLine i j) : (∃ l, i.line? = some l) ∧ ∃ k, j.line? = some k := by
  cases h <;> exact ⟨⟨_, rfl⟩, ⟨_, rfl⟩⟩

/-- A command with a line adds nothing when it ends: it is not INIT, RDIRR or RDISR. -/
theorem State.complete_line {s : State} {i : Instr} {l : Byte} (h : readCmd s.cmd = .ok i) (hl : i.line? = some l) :
    s.complete = s := by
  refine State.complete_other fun j hj => ?_
  cases h.symm.trans hj
  refine ⟨?_, ?_, ?_⟩ <;> rintro rfl <;> cases hl

/-! ## Another latched word -/

/-- The same state with another latched word. -/
def State.withCmd (w : Half) (s : State) : State := { s with cmd := w }

@[simp] theorem State.withCmd_par (w : Half) (s : State) : (s.withCmd w).par = s.par := rfl
@[simp] theorem State.withCmd_phase (w : Half) (s : State) : (s.withCmd w).phase = s.phase := rfl
@[simp] theorem State.withCmd_cmd (w : Half) (s : State) : (s.withCmd w).cmd = w := rfl
@[simp] theorem State.withCmd_txns (w : Half) (s : State) : (s.withCmd w).txns = s.txns := rfl
@[simp] theorem State.withCmd_taken (w : Half) (s : State) : (s.withCmd w).taken = s.taken := rfl

/-- The word `w` and the latched word of `s` read as the same line command on the same line. -/
def State.SameLatch (w : Half) (s : State) : Prop :=
  ∃ i j, SameLine i j ∧ readCmd w = .ok i ∧ readCmd s.cmd = .ok j

theorem State.SameLatch.congr {w : Half} {s t : State} (h : s.SameLatch w) (hc : t.cmd = s.cmd) : t.SameLatch w := by
  rw [State.SameLatch, hc]
  exact h

/-- An end-of-interrupt byte is for the same line (R105). -/
theorem State.dueLine_withCmd {w : Half} {s : State} (h : s.SameLatch w) (pick : Nat) (owed : Half) :
    (s.withCmd w).dueLine pick owed = s.dueLine pick owed := by
  obtain ⟨i, j, hij, hi, hj⟩ := h
  have hnone (hn : s.busy = false ∨ (∀ l, i ≠ .eoi l) ∧ ∀ k, j ≠ .eoi k) :
      (s.withCmd w).dueLine pick owed = s.dueLine pick owed := by
    have hw : (s.withCmd w).eoiLine = none :=
      State.eoiLine_none (hn.imp_right fun h l hl => h.1 l (Except.ok.inj (hi.symm.trans hl)))
    have hs : s.eoiLine = none :=
      State.eoiLine_none (hn.imp_right fun h l hl => h.2 l (Except.ok.inj (hj.symm.trans hl)))
    rw [State.dueLine_none hw, State.dueLine_none hs]
  cases hij with
  | enable hl | disable hl => exact hnone (.inr ⟨nofun, nofun⟩)
  | eoi hl =>
    by_cases hb : s.busy = true
    · have hw : (s.withCmd w).eoiLine = some _ := State.eoiLine_eoi hb hi
      rw [State.dueLine_some hw, State.dueLine_some (State.eoiLine_eoi hb hj), hl]
    · exact hnone (.inl (by simpa using hb))

theorem State.environment_withCmd (w : Half) (s : State) : (s.withCmd w).environment = s.environment.withCmd w := by
  unfold State.environment
  rw [State.withCmd_par, State.withCmd_phase, State.withCmd_taken]
  split
  · split <;> rfl
  · rfl

theorem State.chipsTake_withCmd {w : Half} {s : State} (h : s.SameLatch w) (p : Port) (v : Byte) :
    (s.withCmd w).chipsTake p v = (s.chipsTake p v).withCmd w := by
  have hmaster : (s.withCmd w).masterAcked = s.masterAcked := by
    simp only [State.masterAcked, State.dueLine_withCmd h]
    rfl
  have hslave : (s.withCmd w).slaveAcked = s.slaveAcked := by
    simp only [State.slaveAcked, State.dueLine_withCmd h]
    rfl
  unfold State.chipsTake
  rw [State.withCmd_par, hmaster, hslave]
  repeat' split
  all_goals rfl

theorem State.chipsAnswer_withCmd (w : Half) (p : Port) (s : State) :
    (s.withCmd w).chipsAnswer p = (s.chipsAnswer p).withCmd w := by
  unfold State.chipsAnswer
  rw [State.withCmd_par]
  repeat' split
  all_goals rfl

theorem State.latchByte_withCmd (w : Half) (p : Port) (v : Byte) (s : State) :
    (s.withCmd w).latchByte p v = (s.latchByte p v).withCmd w := by
  unfold State.latchByte
  repeat' split
  all_goals rfl

theorem State.portWrite_withCmd {w : Half} {s : State} (h : s.SameLatch w) (p : Port) (v : Byte) :
    (s.withCmd w).portWrite p v = (s.portWrite p v).withCmd w := by
  have henv : s.environment.SameLatch w := h.congr (State.environment_cmd s)
  rw [State.portWrite, State.environment_withCmd, State.chipsTake_withCmd henv]
  rfl

theorem State.portRead_withCmd (w : Half) (p : Port) (s : State) :
    (s.withCmd w).portRead p = (s.portRead p).withCmd w := by
  rw [State.portRead, State.environment_withCmd, State.chipsAnswer_withCmd, State.latchByte_withCmd]
  rfl

theorem State.emit_withCmd {w : Half} {s : State} (h : s.SameLatch w) (i : Instr) :
    (s.withCmd w).emit i = (s.emit i).withCmd w := by
  unfold State.emit
  rw [State.withCmd_par]
  split
  · exact State.portWrite_withCmd h _ _
  · exact State.portRead_withCmd w _ s
  · rfl

theorem State.retire_withCmd {w : Half} {s : State} (h : s.SameLatch w) :
    (s.withCmd w).retire = s.retire.withCmd w := by
  obtain ⟨i, j, hij, hi, hj⟩ := h
  obtain ⟨⟨l, hl⟩, k, hk⟩ := hij.line
  have hw : (s.withCmd w).complete = s.withCmd w := State.complete_line hi hl
  unfold State.retire
  rw [State.withCmd_txns, hw, State.complete_line hj hk]
  split <;> rfl

/-- A list runs alike with either word latched. -/
theorem State.runTxns_withCmd {w : Half} {s : State} (h : s.SameLatch w) (l : List Instr) :
    State.runTxns l (s.withCmd w) = (State.runTxns l s).withCmd w := by
  induction l generalizing s with
  | nil => rfl
  | cons i rest ih =>
    have hrest : (s.setTxns rest).SameLatch w := h
    have hemit : State.emit i ((s.withCmd w).setTxns rest) = (State.emit i (s.setTxns rest)).withCmd w :=
      State.emit_withCmd hrest i
    rw [State.runTxns, State.runTxns, hemit, State.retire_withCmd (hrest.congr (by simp)), ih (hrest.congr (by simp))]

/-! ## The whole command -/

theorem SameLine.started_eq {i j : Instr} (h : SameLine i j) (s : State) :
    s.started i = (s.started j).withCmd (encodeCmd i) := by
  rw [State.started, State.started, State.stepZero_eq, State.stepZero_eq, h.txnsOf_eq, h.maskAfter_eq]
  cases h <;> rfl

/-- Under `LINE_OOR = mod16` both commands end in the same state, the latched word apart (R64). -/
theorem SameLine.exec_eq {i j : Instr} {s : State} (h : SameLine i j) (hra : ReadyAtomic s)
    (ho : s.par.lineOor = .mod16) :
    ∃ t, exec i s = .next (t.withCmd (encodeCmd i)) ∧ exec j s = .next t := by
  obtain ⟨hi, hj⟩ := h.isCommand
  obtain ⟨⟨l, hl⟩, k, hk⟩ := h.line
  have hlatch : (s.started j).SameLatch (encodeCmd i) :=
    ⟨i, j, h, readCmd_encodeCmd i hi, State.readCmd_started s hj⟩
  have hxi := exec_readyAtomic hra hi (Instr.ne_init_of_line hl) fun _ _ => .inr ho
  have hxj := exec_readyAtomic hra hj (Instr.ne_init_of_line hk) fun _ _ => .inr ho
  rw [h.started_eq, State.withCmd_txns, State.runTxns_withCmd hlatch] at hxi
  exact ⟨_, hxi, hxj⟩

end Sys2Proof.Machine

namespace Sys2Proof.Proofs

open Sys2Proof Sys2Proof.Machine Sys2Proof.Claims

/-- Settles O21: `lineOf` takes an operand modulo 16, and nothing else of a command looks at it. -/
theorem lineTakenModuloSixteen : Obligations.LineTakenModuloSixteen := by
  intro s l k hra ho hlk
  have hline : lineOf l = lineOf k := lineOf_congr hlk
  obtain ⟨t1, hl1, hk1⟩ := (SameLine.enable hline).exec_eq hra ho
  obtain ⟨t2, hl2, hk2⟩ := (SameLine.disable hline).exec_eq hra ho
  obtain ⟨t3, hl3, hk3⟩ := (SameLine.eoi hline).exec_eq hra ho
  exact ⟨t1, t2, t3, hl1, hk1, hl2, hk2, hl3, hk3⟩

end Sys2Proof.Proofs
end

section
/-!
SUPPORT and settled statement: INIT as one atomic step (spec/40_init.md R80 to R87): its list is port writes only, whose
events are the ten of the rule.
-/
namespace Sys2Proof.Machine

open Sys2Proof.Claims

/-- INIT's ten rows in order write the bytes of R80 to the ports of R82. -/
theorem map_writeEvent_initTxns (ports : IcwPorts) :
    initTxns.map (writeEvent ports) = (initEvents ports).map some := by
  cases ports <;> decide

/-- INIT reads nothing (R80). -/
theorem allWrites_initTxns (ports : IcwPorts) : AllWrites ports initTxns := by
  intro i hi
  have hmem : writeEvent ports i ∈ (initEvents ports).map some :=
    map_writeEvent_initTxns ports ▸ List.mem_map_of_mem hi
  obtain ⟨e, -, he⟩ := List.mem_map.1 hmem
  exact Option.isSome_of_eq_some he.symm

/-- The events of INIT's list (R80, R82). -/
theorem filterMap_writeEvent_initTxns (ports : IcwPorts) :
    initTxns.filterMap (writeEvent ports) = initEvents ports := by
  have h := congrArg (List.filterMap id) (map_writeEvent_initTxns ports)
  simpa [List.filterMap_map] using h

end Sys2Proof.Machine

namespace Sys2Proof.Proofs

open Sys2Proof Sys2Proof.Machine Sys2Proof.Claims

/-- Settles O16: step 0 stores the baseline, the list of ten writes adds the rule's events and reads nothing, and its
end is INIT's. -/
theorem initAtomicEffect : Obligations.InitAtomicEffect := by
  intro s hb hp hg
  have hword : readCmd (s.started .init).cmd = .ok .init := State.readCmd_started s rfl
  obtain ⟨htrace, hdraws, hreadM, hreadS, hanswers⟩ :=
    State.runTxns_writes initTxns (s.started .init) (allWrites_initTxns _)
  rw [filterMap_writeEvent_initTxns] at htrace
  have hphase : (State.runTxns initTxns (s.started .init)).phase = .ready :=
    (State.runTxns_phase _ _ (by decide)).trans (if_pos hword)
  have hresult : (State.runTxns initTxns (s.started .init)).result = (s.started .init).result :=
    State.runTxns_result _ _ (by rw [hword]; exact ⟨nofun, nofun⟩)
  have hmask : (State.runTxns initTxns (s.started .init)).irqMask = Config.maskBaseline := State.runTxns_irqMask _ _
  exact ⟨_, exec_atomic rfl (State.turnedAway_init hb hp) hg, State.completed_runTxns rfl hdraws,
    ⟨hreadM, hreadS, hanswers⟩, hmask, hphase, hresult, htrace⟩

end Sys2Proof.Proofs
end

section
/-!
SUPPORT and settled statements: ENABLE and DISABLE as one atomic step (spec/41_mask_ops.md R90 to R93), and what several of
them come to one after another (R96 to R98).
-/
namespace Sys2Proof.Machine

open Sys2Proof.Claims

/-! ## One mask operation -/

/-- `FLUSH(m)` as the trace shows it (R92). -/
def flushEvents (m : Half) : List PortEvent := [.w 0x0021 (lo m), .w 0x00A1 (hi m)]

theorem filterMap_writeEvent_flushTxns (ports : IcwPorts) (m : Half) :
    (flushTxns m).filterMap (writeEvent ports) = flushEvents m := rfl

theorem allWrites_flushTxns (ports : IcwPorts) (m : Half) : AllWrites ports (flushTxns m) := by
  intro j hj
  simp only [flushTxns, List.mem_cons, List.not_mem_nil, or_false] at hj
  rcases hj with rfl | rfl <;> rfl

/-- A mask operation run whole: the mask of its step 0 is stored and flushed, and nothing else of the block moves (R90,
R91, R93). -/
structure Flushed (i : Instr) (s t : State) : Prop where
  completed : Completed s t (encodeCmd i) 2
  noRead : NoRead s t
  phase : t.phase = s.phase
  result : t.result = s.result
  irqMask : t.irqMask = maskAfter i s.irqMask
  trace : t.trace = s.trace ++ flushEvents t.irqMask

/-- Every ENABLE and every DISABLE, idle and Ready, at the atomic grain. -/
theorem exec_maskCommand {s : State} {i : Instr} {l : Byte} (hra : ReadyAtomic s) (hl : LineOk s l)
    (h : i = .enable l ∨ i = .disable l) : ∃ t, exec i s = .next t ∧ Flushed i s t := by
  obtain ⟨hc, hne, hflush, hline⟩ := maskCommand h
  have hlist : (s.started i).txns = flushTxns (s.started i).irqMask := by rw [State.stepZero_txns, hflush]
  obtain ⟨htrace, hdraws, hreadM, hreadS, hanswers⟩ :=
    State.runTxns_writes (s.started i).txns (s.started i) (hlist ▸ allWrites_flushTxns _ _)
  have hresult : (State.runTxns (s.started i).txns (s.started i)).result = (s.started i).result :=
    State.runTxns_result _ _ (by rw [State.readCmd_started s hc]; rcases h with rfl | rfl <;> exact ⟨nofun, nofun⟩)
  refine ⟨_, exec_readyAtomic hra hc hne fun k hk => hline k hk ▸ hl, ?_⟩
  constructor
  case completed => exact State.completed_runTxns hc (by rw [hdraws, hlist]; simp [flushTxns])
  case noRead => exact ⟨by simpa using hreadM, by simpa using hreadS, by simpa using hanswers⟩
  case phase => exact State.phase_runTxns hc hne
  case result => simpa using hresult
  case irqMask => simp
  case trace => rw [htrace, State.runTxns_irqMask, hlist, filterMap_writeEvent_flushTxns]; simp

/-- The next mask operation is taken as this one was. -/
theorem Flushed.readyAtomic {i : Instr} {s t : State} (h : Flushed i s t) (hra : ReadyAtomic s) : ReadyAtomic t := by
  obtain ⟨-, hp, hg⟩ := hra
  exact ⟨h.completed.busy, h.phase.trans hp, by rw [h.completed.par, hg]⟩

theorem Flushed.lineOk {i : Instr} {s t : State} {l : Byte} (h : Flushed i s t) (hl : LineOk s l) : LineOk t l := by
  rw [LineOk, h.completed.par]
  exact hl

/-! ## Several mask operations -/

theorem execAll_cons {i : Instr} {s t : State} (rest : List Instr) (h : exec i s = .next t) :
    execAll (i :: rest) s = execAll rest t := by
  rw [execAll, h]

/-- Two mask operations one after the other. -/
theorem execAll_maskCommands {s : State} {i j : Instr} {l k : Byte} (hra : ReadyAtomic s) (hl : LineOk s l)
    (hk : LineOk s k) (hi : i = .enable l ∨ i = .disable l) (hj : j = .enable k ∨ j = .disable k) :
    ∃ t u, execAll [i, j] s = some u ∧ Flushed i s t ∧ Flushed j t u := by
  obtain ⟨t, hst, ht⟩ := exec_maskCommand hra hl hi
  obtain ⟨u, htu, hu⟩ := exec_maskCommand (ht.readyAtomic hra) (ht.lineOk hk) hj
  exact ⟨t, u, by rw [execAll_cons _ hst, execAll_cons _ htu, execAll], ht, hu⟩

/-- A run of DISABLEs clears no bit, sets that of each of its lines, and leaves INV-B whole: each of them establishes it
(R91, R94). -/
theorem execAll_disable (ls : List Byte) {s : State} (hra : ReadyAtomic s) (hok : ∀ l ∈ ls, LineOk s l) :
    ∃ t, execAll (ls.map .disable) s = some t ∧
      (∀ b, s.irqMask.getLsbD b = true ∨ (∃ l ∈ ls, lineNo l = b) → t.irqMask.getLsbD b = true) ∧
      (invB s.irqMask ∨ ls ≠ [] → invB t.irqMask) := by
  induction ls generalizing s with
  | nil => exact ⟨s, rfl, by simp, by simp⟩
  | cons l rest ih =>
    obtain ⟨t, hst, ht⟩ := exec_maskCommand hra (hok l List.mem_cons_self) (.inr rfl)
    have hmask : t.irqMask = disableMask (lineOf l) s.irqMask := ht.irqMask
    obtain ⟨u, hu, hbits, hB⟩ :=
      ih (ht.readyAtomic hra) fun k hk => ht.lineOk (hok k (List.mem_cons_of_mem _ hk))
    refine ⟨u, by rw [List.map_cons, execAll_cons _ hst, hu], fun b hb => hbits b ?_,
      fun _ => hB (.inl (hmask ▸ invB_disableMask _ _))⟩
    rw [hmask, getLsbD_disableMask, lineOf_toNat]
    rcases hb with hset | ⟨k, hk, rfl⟩
    · exact .inl (by simp [hset])
    · rcases List.mem_cons.1 hk with rfl | hk
      · exact .inl (by simp [lineNo])
      · exact .inr ⟨k, hk, rfl⟩

/-! ## The masks of two operations -/

/-- Outside bit 2 a mask operation moves the bit of its own line only (R90, R91, R98). -/
theorem getLsbD_maskAfter {i : Instr} {l : Byte} (h : i = .enable l ∨ i = .disable l) (m : Half) {b : Nat} (hb : b ≠ 2) :
    (maskAfter i m).getLsbD b = if b = lineNo l then decide (i = .disable l) else m.getLsbD b := by
  have hno : (lineOf l).toNat = lineNo l := lineOf_toNat l
  rcases h with rfl | rfl
  · rw [maskAfter, getLsbD_enableMask, hno]
    by_cases hn : b = lineNo l <;> simp [hn, hb]
  · rw [maskAfter, getLsbD_disableMask, hno]
    by_cases hn : b = lineNo l <;> simp [hn, hb]

/-- ENABLE moves no slave-side bit but that of its line, so that DISABLE's test on the same line sees the high byte there
was, if the bit was set in it. -/
theorem hi_enableMask_or_bitOf {n : BitVec 4} {m : Half} (hn : m.getLsbD n.toNat = true) :
    hi (enableMask n m ||| bitOf n) = hi m :=
  hi_congr fun k h8 _ => by
    rw [BitVec.getLsbD_or, getLsbD_bitOf, getLsbD_enableMask]
    by_cases hk : k = n.toNat
    · simp [hk, hn]
    · simp [hk, show k ≠ 2 by omega]

/-- DISABLE restores what ENABLE of the same line took from a mask in which the bit was set and the cascade bit told
whether every slave-side bit was (R96). -/
theorem disableMask_enableMask {n : BitVec 4} {m : Half} (hn : m.getLsbD n.toNat = true) (hA : invA m) (hB : invB m) :
    disableMask n (enableMask n m) = m := by
  have hcascade : decide (hi m = 0xFF) = m.getLsbD 2 := by
    by_cases hones : hi m = 0xFF
    · rw [hB hones, decide_eq_true hones]
    · rw [hA hones, decide_eq_false hones]
  apply BitVec.eq_of_getLsbD_eq
  intro k _
  rw [getLsbD_disableMask, getLsbD_enableMask, hi_enableMask_or_bitOf hn, hcascade]
  by_cases hk : k = n.toNat
  · simp [hk, hn]
  · by_cases h2 : k = 2
    · subst h2; cases m.getLsbD 2 <;> simp [hk]
    · simp [hk, h2]

end Sys2Proof.Machine

namespace Sys2Proof.Proofs

open Sys2Proof Sys2Proof.Machine Sys2Proof.Claims

/-- Settles O17: ENABLE's step 0 clears the bits, and its list flushes the mask. -/
theorem enableAtomicEffect : Obligations.EnableAtomicEffect := by
  intro s l hra hl
  obtain ⟨t, hx, h⟩ := exec_maskCommand hra (.inl hl) (.inl rfl)
  exact ⟨t, hx, h.completed, h.noRead, h.phase, h.result, h.irqMask.trans (enableMask_eq l _), h.trace⟩

/-- Settles O18: DISABLE's step 0 sets the bits, and its list flushes the mask. -/
theorem disableAtomicEffect : Obligations.DisableAtomicEffect := by
  intro s l hra hl
  obtain ⟨t, hx, h⟩ := exec_maskCommand hra (.inl hl) (.inr rfl)
  exact ⟨t, hx, h.completed, h.noRead, h.phase, h.result, h.irqMask.trans (disableMask_eq l _), h.trace⟩

/-- Settles O24: two flushes, of the mask ENABLE leaves and of the mask DISABLE makes of it. -/
theorem enableThenDisable : Obligations.EnableThenDisable := by
  intro s l hra hl
  obtain ⟨t, u, hx, ht, hu⟩ := execAll_maskCommands hra hl hl (.inl rfl) (.inr rfl)
  have hno : (lineOf l).toNat = lineNo l := lineOf_toNat l
  have hmid : t.irqMask = enableMask (lineOf l) s.irqMask := ht.irqMask
  have hend : u.irqMask = disableMask (lineOf l) t.irqMask := hu.irqMask
  refine ⟨u, hx, ?_, ?_, fun hn hA hB => ?_⟩
  · rw [hend, getLsbD_disableMask, hno]; simp
  · rw [hu.trace, ht.trace, List.append_assoc, hmid, enableMask_eq]; rfl
  · rw [hend, hmid, disableMask_enableMask (hno ▸ hn) hA hB]

/-- Settles O25: the run sets every slave-side bit, and then INV-B, which it leaves whole, gives the cascade bit. -/
theorem disablingEverySlaveLineMasksCascade : Obligations.DisablingEverySlaveLineMasksCascade := by
  intro s ls hra hok hall
  obtain ⟨t, hx, hbits, hB⟩ := execAll_disable ls hra hok
  have hones : hi t.irqMask = 0xFF := (hi_eq_ones _).2 fun k h8 h16 => hbits k (.inr (hall k h8 h16))
  obtain ⟨l, hl, -⟩ := hall 8 (by omega) (by omega)
  exact ⟨t, hx, hones, hB (.inr (List.ne_nil_of_mem hl)) hones⟩

/-- Settles O26: outside bit 2 each operation moves the bit of its own line only, and the lines differ. -/
theorem maskOpsCommuteOutsideCascade : Obligations.MaskOpsCommuteOutsideCascade := by
  intro s l k i j hra hl hk hlk _ _ hi hj
  obtain ⟨t, t', hx, ht, ht'⟩ := execAll_maskCommands hra hl hk hi hj
  obtain ⟨u, u', hy, hu, hu'⟩ := execAll_maskCommands hra hk hl hj hi
  refine ⟨t', u', hx, hy, fun b hb => ?_⟩
  rw [ht'.irqMask, ht.irqMask, hu'.irqMask, hu.irqMask, getLsbD_maskAfter hj _ hb, getLsbD_maskAfter hi _ hb,
    getLsbD_maskAfter hi _ hb, getLsbD_maskAfter hj _ hb]
  by_cases hbl : b = lineNo l
  · simp [hbl, hlk]
  · simp [hbl]

/-- Settles O27: each operation adds the flush of the mask it leaves, which is a function of that mask. -/
theorem writePairIsAFunctionOfTheMask : Obligations.WritePairIsAFunctionOfTheMask := by
  intro s u l k i j hrs hru hl hk hi hj
  obtain ⟨t, hx, ht⟩ := exec_maskCommand hrs hl hi
  obtain ⟨v, hy, hv⟩ := exec_maskCommand hru hk hj
  exact ⟨t, v, flushEvents t.irqMask, flushEvents v.irqMask, hx, hy, ht.trace, hv.trace, rfl, rfl, congrArg flushEvents⟩

end Sys2Proof.Proofs
end

section
/-!
SUPPORT and settled statements: the end of an interrupt (spec/42_eoi.md R105 to R108): EOI as one atomic step, and what an
end-of-interrupt byte for an interrupt that was taken leaves of the chip (spec/70_reset_and_hazards.md R148).
-/
namespace Sys2Proof.Machine

open Sys2Proof.Claims

/-! ## The writes of EOI (R105, R106) -/

theorem allWrites_eoiTxns (ports : IcwPorts) (l : Byte) : AllWrites ports (eoiTxns l) := by
  rw [AllWrites, eoiTxns_eq]
  split <;> simp [writeEvent, portOp]

theorem filterMap_writeEvent_eoiTxns (ports : IcwPorts) (l : Byte) :
    (eoiTxns l).filterMap (writeEvent ports) =
      if 8 ≤ lineNo l then [.w 0x00A0 0x20, .w 0x0020 0x20] else [.w 0x0020 0x20] := by
  rw [eoiTxns_eq]
  split <;> rfl

/-! ## The interrupt a byte is for (R105, R148) -/

/-- The interrupt that is waited for, by its line: that of the EOI in progress, if one is; else a free choice (log entry
11). -/
theorem State.dueLine_of_awaited {s : State} {owed : Half} (pick : Nat) (h : Awaited s owed) :
    ∃ k, owed.getLsbD k = true ∧ s.dueLine pick owed = (1 : Half) <<< k ∧
      ∀ l, s.busy = true → s.cmd = lineWord 0x04 l → k = lineNo l := by
  rcases h with ⟨hb, l, hc, hl⟩ | ⟨hno, ho⟩
  · have hread (k : Byte) (hk : s.cmd = lineWord 0x04 k) : readCmd s.cmd = .ok (.eoi k) := hk ▸ readCmd_eoi k
    refine ⟨lineNo l, hl, ?_, fun k _ hk => ?_⟩
    · rw [State.dueLine_some (State.eoiLine_eoi hb (hread l hc)), bitOf_lineOf, lineBit]
    · have hkl : Except.ok (Instr.eoi l) = .ok (.eoi k) := (hread l hc).symm.trans (hread k hk)
      cases hkl
      rfl
  · have hnone : s.eoiLine = none :=
      State.eoiLine_none (hno.imp_right fun hw l hr => hw l (encodeCmd_of_readCmd _ _ hr).1.symm)
    refine ⟨pickBit pick owed, (pickBit_set pick ho).2, ?_, fun l hb hc => ?_⟩
    · rw [State.dueLine_none hnone, oneOf, if_neg ho]
    · rcases hno with hf | hw
      · rw [hb] at hf; cases hf
      · exact absurd hc (hw l)

theorem State.dueLine_environment (pick : Nat) (owed : Half) (s : State) :
    s.environment.dueLine pick owed = s.dueLine pick owed := by
  rw [State.dueLine, State.dueLine, State.environment_eoiLine]

/-- More interrupts taken leave those that are waited for. -/
theorem awaited_or {s : State} {owed : Half} (h : Awaited s owed) (more : Half) : Awaited s (owed ||| more) := by
  rcases h with ⟨hb, l, hc, hl⟩ | ⟨hno, ho⟩
  · exact .inl ⟨hb, l, hc, by rw [BitVec.getLsbD_or, hl, Bool.true_or]⟩
  · exact .inr ⟨hno, fun h0 => ho (BitVec.or_eq_zero_iff.1 h0).1⟩

/-! ## What the byte leaves of the chip (R107, R108) -/

/-- A byte that serves a taken interrupt ends one service (R108). -/
theorem oneServiceEnded_acknowledge (free : Chip) (pick : Nat) {due : Half} (held : Byte) {c : Chip} (h : serves due c) :
    OneServiceEnded c.isr (acknowledge free pick due held c).isr := by
  have hne : endable held c.isr ≠ 0 := endable_ne_zero h.2
  obtain ⟨hlt, hset⟩ := pickBit_set pick hne
  refine ⟨pickBit pick (endable held c.isr), hlt, getLsbD_of_endable hset, fun b => ?_⟩
  rw [acknowledge_isr_serves free pick h, getLsbD_oneOf, decide_eq_true hne, Bool.true_and, decide_not]

/-- A byte that serves a taken interrupt is its one EOI (R148). -/
theorem acknowledge_owed_serves (free : Chip) (pick : Nat) {due : Half} (held : Byte) {c : Chip} (h : serves due c) :
    (acknowledge free pick due held c).owed = c.owed &&& ~~~due := if_pos h

/-- Two values with a bit in common. -/
theorem and_ne_zero_of_getLsbD {w : Nat} {a b : BitVec w} {k : Nat} (ha : a.getLsbD k = true) (hb : b.getLsbD k = true) :
    a &&& b ≠ 0 := by
  intro h0
  have hk : (a &&& b).getLsbD k = true := by rw [BitVec.getLsbD_and, ha, hb, Bool.true_and]
  rw [h0] at hk
  simp at hk

/-- The byte for an interrupt that is waited for, with something in service: not a case of U9, one service ended, and one
EOI fewer to wait for (R108, R148). -/
theorem acknowledge_awaited {s : State} {c : Chip} (free : Chip) (pick : Nat) (held : Byte) (ha : Awaited s c.owed)
    (h0 : c.isr ≠ 0) :
    serves (s.dueLine pick c.owed) c ∧
      OneServiceEnded c.isr (acknowledge free pick (s.dueLine pick c.owed) held c).isr ∧
      OwesOneLess s c.owed (acknowledge free pick (s.dueLine pick c.owed) held c).owed := by
  obtain ⟨k, hk, hdue, hline⟩ := State.dueLine_of_awaited pick ha
  have hbit : ((1 : Half) <<< k).getLsbD k = true := by simp [BitVec.lt_of_getLsbD hk]
  have hs : serves (s.dueLine pick c.owed) c := ⟨hdue ▸ and_ne_zero_of_getLsbD hk hbit, h0⟩
  exact ⟨hs, oneServiceEnded_acknowledge free pick held hs, k, hk, hdue ▸ acknowledge_owed_serves free pick held hs, hline⟩

/-- The master holds line 2 while anything else is in service there (R125). -/
theorem getLsbD_two_acknowledge (free : Chip) (pick : Nat) {due : Half} {c : Chip} (h : serves due c) {b : Nat}
    (hb : b ≠ 2) (hset : c.isr.getLsbD b = true) :
    (acknowledge free pick due (lo Config.cascadeBit) c).isr.getLsbD 2 = c.isr.getLsbD 2 := by
  have hfree : (~~~lo Config.cascadeBit).getLsbD b = true := by
    rw [BitVec.getLsbD_not, getLsbD_lo, getLsbD_cascadeBit]
    simp [BitVec.lt_of_getLsbD hset, hb]
  have hother : c.isr &&& ~~~lo Config.cascadeBit ≠ 0 := and_ne_zero_of_getLsbD hset hfree
  cases h2 : c.isr.getLsbD 2 with
  | true => exact acknowledge_isr_held free pick h h2 rfl hother
  | false => rw [acknowledge_isr_serves free pick h, h2, Bool.false_and]

/-! ## The two rows (R105, R107) -/

/-- EOI.M outside a sequence. -/
theorem State.portWrite_eoi_master {s : State} (hc : s.par.chipsPresent = true) (h0 : s.master.icwStep = 0) :
    (s.portWrite Config.masterCmd Config.eoiByte).master = s.environment.masterAcked ∧
      (s.portWrite Config.masterCmd Config.eoiByte).slave = s.environment.slave := by
  obtain ⟨hm, hs⟩ := State.portWrite_masterCmd Config.eoiByte hc
  exact ⟨hm.trans (takeCommand_eoi _ _ (by simpa using h0)), hs⟩

/-- EOI.S outside a sequence. -/
theorem State.portWrite_eoi_slave {s : State} (hc : s.par.chipsPresent = true) (h0 : s.slave.icwStep = 0) :
    (s.portWrite Config.slaveCmd Config.eoiByte).slave = s.environment.slaveAcked ∧
      (s.portWrite Config.slaveCmd Config.eoiByte).master = s.environment.master := by
  obtain ⟨hs, hm⟩ := State.portWrite_slaveCmd Config.eoiByte hc
  exact ⟨hs.trans (takeCommand_eoi _ _ (by simpa using h0)), hm⟩

/-- The environment ends nothing (R126), so what made the byte's case stays (R148): at the master. -/
theorem State.environment_master_awaited {s : State} (hc : s.par.chipsPresent = true) (hp : s.phase = .ready)
    (ha : Awaited s s.master.owed) (h0 : s.master.isr ≠ 0) :
    Awaited s s.environment.master.owed ∧ s.environment.master.isr ≠ 0 := by
  rw [(State.environment_owed hc hp).1, (State.environment_isr hc hp).1]
  exact ⟨awaited_or ha _, fun h => h0 (BitVec.or_eq_zero_iff.1 h).1⟩

/-- And at the slave. -/
theorem State.environment_slave_awaited {s : State} (hc : s.par.chipsPresent = true) (hp : s.phase = .ready)
    (ha : Awaited s s.slave.owed) (h0 : s.slave.isr ≠ 0) :
    Awaited s s.environment.slave.owed ∧ s.environment.slave.isr ≠ 0 := by
  rw [(State.environment_owed hc hp).2, (State.environment_isr hc hp).2]
  exact ⟨awaited_or ha _, fun h => h0 (BitVec.or_eq_zero_iff.1 h).1⟩

end Sys2Proof.Machine

namespace Sys2Proof.Proofs

open Sys2Proof Sys2Proof.Machine Sys2Proof.Claims

/-- Settles O19: step 0 moves no register, and the list is port writes only, whose events are the rule's. -/
theorem eoiAtomicEffect : Obligations.EoiAtomicEffect := by
  intro s l hra hl
  obtain ⟨hc, hne, -, hline⟩ := quietCommand (l := l) (.inl rfl)
  have hword : readCmd (s.started (.eoi l)).cmd = .ok (.eoi l) := State.readCmd_started s hc
  obtain ⟨htrace, hdraws, hreadM, hreadS, hanswers⟩ :=
    State.runTxns_writes (eoiTxns l) (s.started (.eoi l)) (allWrites_eoiTxns _ l)
  rw [filterMap_writeEvent_eoiTxns] at htrace
  have hcount : (eoiTxns l).length = if 8 ≤ lineNo l then 2 else 1 := length_txnsOf (.eoi l) s
  have hmask : (State.runTxns (eoiTxns l) (s.started (.eoi l))).irqMask = s.irqMask := State.runTxns_irqMask _ _
  have hresult : (State.runTxns (eoiTxns l) (s.started (.eoi l))).result = s.result :=
    State.runTxns_result _ _ (by rw [hword]; exact ⟨nofun, nofun⟩)
  exact ⟨_, exec_readyAtomic hra hc hne fun k hk => hline k hk ▸ .inl hl,
    State.completed_runTxns hc (hcount ▸ hdraws), ⟨hreadM, hreadS, hanswers⟩, hmask, State.phase_runTxns hc hne, hresult,
    htrace⟩

/-- Settles O44: after the environment's move the byte is still for an interrupt that is waited for, so the chip's
acknowledgement is no case of U9. -/
theorem eoiRowClearsOneServiceBit : Obligations.EoiRowClearsOneServiceBit := by
  intro s hc hp
  refine ⟨fun h0 ha hi => ?_, fun h0 ha hi => ?_⟩
  · obtain ⟨hm, hs⟩ := State.portWrite_eoi_master hc h0
    obtain ⟨ha, hi⟩ := State.environment_master_awaited hc hp ha hi
    have hconfig := chipConfig_eq_iff.1 (State.configsKept_masterCmd h0 (.inr (.inr rfl))).1
    obtain ⟨hserves, hone, hless⟩ := acknowledge_awaited (s.environment.byteChip .master)
      (Config.freePick (3 * s.environment.draws)) s.environment.held ha hi
    rw [← State.dueLine_environment] at hserves hone hless
    refine ⟨_, exec_write rfl, hs, hconfig, hm ▸ hone, ?_, hm ▸ hless⟩
    rintro hslave ⟨b, hb, hset⟩
    have hheld : s.environment.held = lo Config.cascadeBit := if_neg hslave
    have htwo := getLsbD_two_acknowledge (s.environment.byteChip .master) (Config.freePick (3 * s.environment.draws))
      hserves hb hset
    rw [← hheld] at htwo
    exact hm ▸ htwo
  · obtain ⟨hs, hm⟩ := State.portWrite_eoi_slave hc h0
    obtain ⟨ha, hi⟩ := State.environment_slave_awaited hc hp ha hi
    have hconfig := chipConfig_eq_iff.1 (State.configsKept_slaveCmd h0 (.inr (.inr rfl))).2
    obtain ⟨-, hone, hless⟩ := acknowledge_awaited (s.environment.byteChip .slave)
      (Config.freePick (3 * s.environment.draws + 1)) 0 ha hi
    rw [← State.dueLine_environment] at hone hless
    exact ⟨_, exec_write rfl, hm, hconfig, hs ▸ hone, hs ▸ hless⟩

end Sys2Proof.Proofs
end

section
/-!
SUPPORT and settled statement: the window between the two mask writes (spec/70_reset_and_hazards.md R146): which lines two
mask registers let through (spec/60_exceptions.md R123), and the row that writes the master's register first.
-/
namespace Sys2Proof.Machine

open Sys2Proof.Claims

/-- The lines let through, bit by bit (R123). -/
theorem getLsbD_deliverable (imrM imrS : Byte) {n : Nat} (hn : n < 16) :
    (deliverable imrM imrS).getLsbD n =
      if n < 8 then !imrM.getLsbD n else !imrS.getLsbD (n - 8) && !imrM.getLsbD 2 := by
  rw [deliverable, getLsbD_pair]
  split_ifs with h8 h2
  · simp [h8]
  · simp [h2]
  · have hslave : n - 8 < 8 := by omega
    rw [BitVec.getLsbD_not, decide_eq_true hslave, Bool.true_and, Bool.eq_false_iff.2 h2, Bool.not_false, Bool.and_true]

/-- A chip pair that holds the master's byte of the new mask and the slave's byte of the old one is in the window (R146). -/
theorem window_of_imr {old new : Half} {t : State} (hm : t.master.imr = lo new) (hs : t.slave.imr = hi old) :
    Window old new t := by
  refine ⟨hm, hs, fun n hn => ?_⟩
  have hbit : (deliverable t.master.imr t.slave.imr).getLsbD n =
      if n < 8 then !new.getLsbD n else !old.getLsbD n && !new.getLsbD 2 := by
    rw [getLsbD_deliverable _ _ hn, hm, hs, getLsbD_lo, getLsbD_lo, getLsbD_hi]
    split_ifs with h8
    · simp [h8]
    · simp [show n - 8 < 8 by omega, show 8 + (n - 8) = n by omega]
  refine ⟨hbit, fun hold hnew => ?_⟩
  rw [hbit, hold, hnew]
  simp

/-- The first mask write of `FLUSH` opens the window, whatever the two registers held (R92, R146). -/
theorem State.window_emit_maskM {s : State} (new : Half) (hc : s.par.chipsPresent = true) (h0 : s.master.icwStep = 0) :
    Window (chipMask s) new (s.emit (.maskM (lo new))) := by
  obtain ⟨hm, hs⟩ := State.emit_maskM (lo new) hc h0
  refine window_of_imr (by rw [hm]) ?_
  rw [hs, State.environment_slave_imr]
  exact (hi_pair s.slave.imr s.master.imr).symm

end Sys2Proof.Machine

namespace Sys2Proof.Proofs

open Sys2Proof Sys2Proof.Machine Sys2Proof.Claims

/-- Settles O48: micro-step 1 of ENABLE and DISABLE runs the master's mask row with the byte of the stored mask. -/
theorem flushWindowLetsNothingThrough : Obligations.FlushWindowLetsNothingThrough := by
  refine ⟨fun s new hc h0 => ⟨_, exec_transaction _ s rfl, State.window_emit_maskM new hc h0⟩,
    fun s l i hcmd hc hb hw h1 hprog hu => ?_⟩
  obtain ⟨-, -, hflush, -⟩ := maskCommand hcmd
  have h0 : s.step ≠ 0 := by rw [h1]; exact one_ne_zero
  have htx : s.txns = [.maskM (lo s.irqMask), .maskS (hi s.irqMask)] := by
    rw [hw.txns_eq h0, hflush, h1]; rfl
  refine ⟨_, step_transaction hb (State.intruder_undisturbed hu) h0 htx (exec_transaction _ _ rfl), ?_⟩
  rw [State.retire_cons (State.emit_txns ..)]
  exact ⟨by simp, by simp [h1], State.window_emit_maskM s.irqMask hc hprog.masterSeq⟩

end Sys2Proof.Proofs
end

section
/-!
SUPPORT and settled statement: how lines come into service and what keeps them there (spec/60_exceptions.md R123, R125,
R126, R128; spec/70_reset_and_hazards.md R148). The environment's move is the one thing that puts a line in service, and
a row that is no ICW1 and no end-of-interrupt byte leaves service as that move left it.
-/
namespace Sys2Proof.Machine

open Sys2Proof.Claims

/-! ## Rows that leave service alone -/

/-- The lines in service at a chip and the interrupts it waits for are the same. -/
structure ServiceKept (c d : Chip) : Prop where
  isr : d.isr = c.isr
  owed : d.owed = c.owed

theorem ServiceKept.refl (c : Chip) : ServiceKept c c := ⟨rfl, rfl⟩

/-- A transaction moved the service of neither chip beyond the environment's move before it. -/
def ServiceAsEnvironment (s t : State) : Prop :=
  ServiceKept s.environment.master t.master ∧ ServiceKept s.environment.slave t.slave

/-- A mask byte to the master (R19; log entry 27). -/
theorem State.serviceAsEnvironment_masterData {s : State} (v : Byte) (h : ChipsUp s) :
    ServiceAsEnvironment s (s.portWrite Config.masterData v) := by
  obtain ⟨hm, hs⟩ := State.portWrite_masterData v h.present
  rw [takeData_mask _ _ v (by simpa using h.masterSeq)] at hm
  exact ⟨hm ▸ ⟨rfl, rfl⟩, hs ▸ .refl _⟩

/-- A mask byte to the slave. -/
theorem State.serviceAsEnvironment_slaveData {s : State} (v : Byte) (h : ChipsUp s) :
    ServiceAsEnvironment s (s.portWrite Config.slaveData v) := by
  obtain ⟨hs, hm⟩ := State.portWrite_slaveData v h.present
  rw [takeData_mask _ _ v (by simpa using h.slaveSeq)] at hs
  exact ⟨hm ▸ .refl _, hs ▸ ⟨rfl, rfl⟩⟩

/-- A selector byte (R21; log entry 32). -/
theorem State.serviceAsEnvironment_selector {s : State} {v : Byte} (h : ChipsUp s)
    (hv : v = Config.selectIrr ∨ v = Config.selectIsr) : ServiceAsEnvironment s (s.portWrite Config.masterCmd v) := by
  obtain ⟨hm, hs⟩ := State.portWrite_masterCmd v h.present
  refine ⟨?_, hs ▸ .refl _⟩
  rcases hv with rfl | rfl
  · rw [hm, takeCommand_selectIrr _ _ (by simpa using h.masterSeq)]; exact ⟨rfl, rfl⟩
  · rw [hm, takeCommand_selectIsr _ _ (by simpa using h.masterSeq)]; exact ⟨rfl, rfl⟩

/-- A read (U5; log entry 12). -/
theorem State.serviceAsEnvironment_portRead (p : Port) (s : State) : ServiceAsEnvironment s (s.portRead p) := by
  rw [ServiceAsEnvironment, State.portRead_master, State.portRead_slave, State.chipsAnswer]
  split_ifs
  all_goals exact ⟨⟨rfl, rfl⟩, ⟨rfl, rfl⟩⟩

/-- The rows other than ICW1 and the end-of-interrupt bytes, an ICW only where it goes to a data port. -/
theorem exec_serviceAsEnvironment {s t : State} {i : Instr} (hup : ChipsUp s) (hi : i.isCommand = false)
    (hem : i ≠ .eoiM) (hes : i ≠ .eoiS) (hm : i ≠ .icw1M) (hs : i ≠ .icw1S)
    (hicw : s.par.icwPorts = .split ∨ i.atIcwPosition = false) (h : exec i s = .next t) : ServiceAsEnvironment s t := by
  rw [exec_transaction i s hi] at h
  cases h
  have hsplit (hpos : i.atIcwPosition = true) : s.par.icwPorts = .split :=
    hicw.resolve_right (by rw [hpos]; exact Bool.noConfusion)
  have hmaster (v : Byte) (hop : portOp s.par.icwPorts i = some (.write Config.masterData v)) :
      ServiceAsEnvironment s (s.emit i) := State.emit_write hop ▸ State.serviceAsEnvironment_masterData v hup
  have hslave (v : Byte) (hop : portOp s.par.icwPorts i = some (.write Config.slaveData v)) :
      ServiceAsEnvironment s (s.emit i) := State.emit_write hop ▸ State.serviceAsEnvironment_slaveData v hup
  cases i
  case eoiM => exact absurd rfl hem
  case eoiS => exact absurd rfl hes
  case icw1M => exact absurd rfl hm
  case icw1S => exact absurd rfl hs
  case icw2M | icw3M | icw4M => exact hmaster _ (by rw [hsplit rfl]; rfl)
  case icw2S | icw3S | icw4S => exact hslave _ (by rw [hsplit rfl]; rfl)
  case maskM v => exact hmaster v rfl
  case maskS v => exact hslave v rfl
  case selIrr => exact State.serviceAsEnvironment_selector hup (.inl rfl)
  case selIsr => exact State.serviceAsEnvironment_selector hup (.inr rfl)
  case rdM | rdS => exact State.serviceAsEnvironment_portRead _ s
  all_goals cases hi

/-! ## The lines taken were not blocked -/

/-- A line above every line of `v` is none of them, for no line is above itself (R126). -/
theorem getLsbD_of_above_all {side : Side} {v : Byte} {k : Nat} (h : ∀ j, v.getLsbD j = true → above side k j = true) :
    v.getLsbD k = false := by
  by_contra hk
  have := h k (by simpa using hk)
  rw [above_self] at this
  cases this

/-- What a set of lines is at the master, bit by bit (R125). -/
theorem getLsbD_masterPart (lines : Half) (b : Nat) :
    (masterPart lines).getLsbD b = ((lo lines).getLsbD b || (decide (b = 2) && decide (hi lines ≠ 0))) := by
  rw [masterPart, BitVec.getLsbD_or]
  split_ifs with h
  · simp [h]
  · rw [getLsbD_lo Config.cascadeBit, getLsbD_cascadeBit]
    by_cases hb : b = 2
    · rw [decide_eq_true hb, decide_eq_true h, decide_eq_true (by omega : b < 8)]
    · rw [decide_eq_false hb, Bool.and_false, Bool.false_and]

/-- A master-side line taken was enabled, above every line in service, and waited for no EOI (R123, R128, R148). -/
theorem State.taken_master_fresh {s : State} {b : Nat} (h : (lo s.taken).getLsbD b = true) :
    s.master.imr.getLsbD b = false ∧ (∀ j, s.master.isr.getLsbD j = true → above .master b j = true) ∧
      s.master.owed.getLsbD b = false := by
  obtain ⟨-, himr, habove⟩ := State.taken_master h
  have hb := getLsbD_of_above_all habove
  rw [State.masterBlocking, BitVec.getLsbD_or, getLsbD_masterPart, getLsbD_lo, decide_eq_true (BitVec.lt_of_getLsbD h),
    Bool.true_and, Bool.or_eq_false_iff, Bool.or_eq_false_iff] at hb
  obtain ⟨-, howed, -⟩ := hb
  refine ⟨himr, fun j hj => habove j ?_, howed⟩
  rw [State.masterBlocking, BitVec.getLsbD_or, hj, Bool.true_or]

/-- A slave-side line taken was enabled with the cascade open, above every line in service at the slave, and waited for no
EOI; line 2 was free at the master and above all that was in service there (R123, R125, R126, R128, R148). -/
theorem State.taken_slave_fresh {s : State} {b : Nat} (h : (hi s.taken).getLsbD b = true) :
    (s.slave.imr.getLsbD b = false ∧ s.master.imr.getLsbD 2 = false) ∧
      (s.slave.isr.getLsbD b = false ∧ ∀ j, s.slave.isr.getLsbD j = true → above .slave b j = true) ∧
      (s.master.isr.getLsbD 2 = false ∧ ∀ j, s.master.isr.getLsbD j = true → above .master 2 j = true) ∧
      hi s.master.owed = 0 ∧ s.slave.owed.getLsbD (8 + b) = false := by
  obtain ⟨himr, hcascade, hslave, hmaster⟩ := State.taken_slave h
  have hb := getLsbD_of_above_all hslave
  have h2 := getLsbD_of_above_all hmaster
  rw [State.slaveBlocking, BitVec.getLsbD_or, getLsbD_hi, decide_eq_true (BitVec.lt_of_getLsbD h), Bool.true_and,
    Bool.or_eq_false_iff] at hb
  rw [State.masterBlocking, BitVec.getLsbD_or, getLsbD_masterPart, Bool.or_eq_false_iff, Bool.or_eq_false_iff] at h2
  obtain ⟨hisr, howed⟩ := hb
  obtain ⟨hfree, -, hidle⟩ := h2
  refine ⟨⟨himr, hcascade⟩, ⟨hisr, fun j hj => hslave j ?_⟩, ⟨hfree, fun j hj => hmaster j ?_⟩, by simpa using hidle, howed⟩
  · rw [State.slaveBlocking, BitVec.getLsbD_or, hj, Bool.true_or]
  · rw [State.masterBlocking, BitVec.getLsbD_or, hj, Bool.true_or]

/-! ## The environment's move -/

/-- A bit set in `a ||| b` and not in `a`. -/
theorem getLsbD_or_new {w : Nat} {a b : BitVec w} {k : Nat} (h : (a ||| b).getLsbD k = true) (ha : a.getLsbD k = false) :
    b.getLsbD k = true := by
  rwa [BitVec.getLsbD_or, ha, Bool.false_or] at h

theorem subBits_or (a b : Byte) : SubBits a (a ||| b) := fun k h => by rw [BitVec.getLsbD_or, h, Bool.true_or]

/-- Line 2 comes into service for a slave-side line taken, and for nothing else (R122, R125). -/
theorem State.getLsbD_two_masterPart_taken (s : State) : (masterPart s.taken).getLsbD 2 = true ↔ hi s.taken ≠ 0 := by
  have hno : (lo s.taken).getLsbD 2 = false := by
    by_contra hlo
    exact (State.taken_master (by simpa using hlo)).1 rfl
  rw [getLsbD_masterPart, hno, Bool.false_or, decide_eq_true rfl, Bool.true_and, decide_eq_true_iff]

end Sys2Proof.Machine

namespace Sys2Proof.Proofs

open Sys2Proof Sys2Proof.Machine Sys2Proof.Claims

/-- Settles O47: the row leaves service as the environment's move left it, and that move adds the lines taken. -/
theorem serviceBeginsEnabledEndsByEoi : Obligations.ServiceBeginsEnabledEndsByEoi := by
  intro s t i hup hp hrow hem hes hm hs hicw h
  obtain ⟨hM, hS⟩ := exec_serviceAsEnvironment hup hrow hem hes hm hs hicw h
  obtain ⟨hisrM, hisrS⟩ := State.environment_isr hup.present hp
  obtain ⟨howedM, howedS⟩ := State.environment_owed hup.present hp
  rw [hM.isr, hS.isr, hM.owed, hS.owed, hisrM, hisrS, howedM, howedS]
  have hne {b : Nat} (hb : (hi s.taken).getLsbD b = true) : hi s.taken ≠ 0 := by
    intro h0; rw [h0] at hb; simp at hb
  have hline2 (h0 : hi s.taken ≠ 0) : (s.master.isr ||| masterPart s.taken).getLsbD 2 = true := by
    rw [BitVec.getLsbD_or, (State.getLsbD_two_masterPart_taken s).2 h0, Bool.or_true]
  refine ⟨subBits_or _ _, subBits_or _ _, fun b h2 ht hb => ?_, fun ht hb => ?_, fun b ht hb => ?_, fun hpair h0 => ?_⟩
  · have htaken : (lo s.taken).getLsbD b = true := by
      simpa [getLsbD_masterPart, h2] using getLsbD_or_new ht hb
    obtain ⟨himr, habove, howed⟩ := State.taken_master_fresh htaken
    refine ⟨himr, habove, howed, ?_⟩
    rw [getLsbD_lo, Bool.and_eq_true] at htaken
    rw [BitVec.getLsbD_or, htaken.2, Bool.or_true]
  · have h0 : hi s.taken ≠ 0 := (State.getLsbD_two_masterPart_taken s).1 (getLsbD_or_new ht hb)
    have hset := (pickBit_set 0 h0).2
    refine ⟨_, ?_, (State.taken_slave_fresh hset).2.1.1⟩
    rw [BitVec.getLsbD_or, hset, Bool.or_true]
  · have htaken := getLsbD_or_new ht hb
    obtain ⟨⟨himr, hcascade⟩, ⟨-, hslave⟩, ⟨hfree, hmaster⟩, hidle, howed⟩ := State.taken_slave_fresh htaken
    have hlt : b < 8 := BitVec.lt_of_getLsbD htaken
    refine ⟨himr, hcascade, hfree, hline2 (hne htaken), hslave, hmaster, hidle, ?_, howed, ?_, fun c htc hc =>
      State.taken_slave_unique (getLsbD_or_new htc hc) htaken⟩
    · have hbit := htaken
      rw [getLsbD_hi, Bool.and_eq_true] at hbit
      rw [BitVec.getLsbD_or, hbit.2, Bool.or_true]
    · rw [BitVec.getLsbD_or, getLsbD_pair]
      simp [htaken]
  · by_cases h0t : hi s.taken = 0
    · have hsl : s.slave.isr ≠ 0 := fun hz => h0 (BitVec.or_eq_zero_iff.2 ⟨hz, h0t⟩)
      rw [BitVec.getLsbD_or, hpair hsl, Bool.true_or]
    · exact hline2 h0t

end Sys2Proof.Proofs
end

section
/-!
PROOF. A run that has ended (O11): decision D21, and log entry 16 for the model's choice.
-/

namespace Sys2Proof.Proofs

open Sys2Proof Sys2Proof.Machine Sys2Proof.Claims

/-- Settles O11: an idle block is not disturbed, and fetches from the empty stream. -/
theorem endedRunIdles : Obligations.EndedRunIdles :=
  fun _ hidle hnone => step_ended hidle hnone

end Sys2Proof.Proofs
end
